-- ==== Sys2Proof/Word.lean ====
section
/-!
DEFINITION. Sys2Proof/Word.lean: the word, the byte and the register index (00_scope.md R5, R8; 10_state.md R20, R21).
-/

namespace Sys2Proof

/-- A 32-bit pattern: every register, memory word, address and ALU result is one (R8). -/
abbrev Word := BitVec 32

/-- A byte of the memory image (R76). Inside the machine no access sees a part of a word (R73). -/
abbrev Byte := BitVec 8

/-- A register index, "always a 0..31 value derived from instruction bit fields" (R22). -/
abbrev Reg := BitVec 5

/-- A condition code (R109). -/
abbrev Cond := BitVec 5

/-- The 64-bit counters, which wrap (R36). -/
abbrev Count := BitVec 64

namespace Reg

/-- Register 26, INTLR: interrupt link (R21, R28). -/
abbrev intLink : Reg := 26#5
/-- Register 27, IHDLR: interrupt-handler address (R21, R28). -/
abbrev intHandler : Reg := 27#5
/-- Register 28, PC: program counter (R21, R24). -/
abbrev pc : Reg := 28#5
/-- Register 29, STATUS (R21, R26). -/
abbrev status : Reg := 29#5
/-- Register 30, SP: stack pointer by name only (R21, R27). -/
abbrev sp : Reg := 30#5
/-- Register 31, LR: subroutine link (R21, R27). -/
abbrev link : Reg := 31#5

end Reg

end Sys2Proof
end

