-- ==== Sys2Proof/Syntax.lean ====
section
/-!
DEFINITION. Sys2Proof/Syntax.lean: the instructions, one constructor per row of spec/opcode_table.json
(30_encoding.md R94 to R102). Register fields and immediates are held raw, as the word has them: what a field means
(its extension, when its register is read) is said by the instruction's meaning. The operand syntax in the docstrings
is that of R110.
-/

namespace Sys2Proof

/-- The 46 instruction variants. The addressing mode is part of the variant (R98). -/
inductive Instr where
  /-- `ADDU rd, rs1, rs2`: format A3R, ALU opcode 0 (R132). -/
  | addu (rd rs1 rs2 : Reg)
  /-- `ADDUI rd, rs1, #imm9`: format A3I, ALU opcode 1 (R133). -/
  | addui (rd rs1 : Reg) (imm9 : BitVec 9)
  /-- `ADDS rd, rs1, rs2`: format A3R, ALU opcode 2 (R134). -/
  | adds (rd rs1 rs2 : Reg)
  /-- `ADDSI rd, rs1, #imm9`: format A3I, ALU opcode 3 (R135). -/
  | addsi (rd rs1 : Reg) (imm9 : BitVec 9)
  /-- `SUBU rd, rs1, rs2`: format A3R, ALU opcode 4 (R136). -/
  | subu (rd rs1 rs2 : Reg)
  /-- `SUBUI rd, rs1, #imm9`: format A3I, ALU opcode 5 (R137). -/
  | subui (rd rs1 : Reg) (imm9 : BitVec 9)
  /-- `SUBS rd, rs1, rs2`: format A3R, ALU opcode 6 (R138). -/
  | subs (rd rs1 rs2 : Reg)
  /-- `SUBSI rd, rs1, #imm9`: format A3I, ALU opcode 7 (R139). -/
  | subsi (rd rs1 : Reg) (imm9 : BitVec 9)
  /-- `MULU rd, rs1, rs2`: format A3R, ALU opcode 8 (R140). -/
  | mulu (rd rs1 rs2 : Reg)
  /-- `MULUI rd, rs1, #imm9`: format A3I, ALU opcode 9 (R141). -/
  | mului (rd rs1 : Reg) (imm9 : BitVec 9)
  /-- `MULS rd, rs1, rs2`: format A3R, ALU opcode 10 (R142). -/
  | muls (rd rs1 rs2 : Reg)
  /-- `MULSI rd, rs1, #imm9`: format A3I, ALU opcode 11 (R143). -/
  | mulsi (rd rs1 : Reg) (imm9 : BitVec 9)
  /-- `DIVU rd, rs1, rs2`: format A3R, ALU opcode 12 (R144). -/
  | divu (rd rs1 rs2 : Reg)
  /-- `DIVUI rd, rs1, #imm9`: format A3I, ALU opcode 13 (R145). -/
  | divui (rd rs1 : Reg) (imm9 : BitVec 9)
  /-- `DIVS rd, rs1, rs2`: format A3R, ALU opcode 14 (R146). -/
  | divs (rd rs1 rs2 : Reg)
  /-- `DIVSI rd, rs1, #imm9`: format A3I, ALU opcode 15 (R147). -/
  | divsi (rd rs1 : Reg) (imm9 : BitVec 9)
  /-- `CMPU rs1, rs2`: format A2R, ALU opcode 16 (R151). -/
  | cmpu (rs1 rs2 : Reg)
  /-- `CMPS rs1, rs2`: format A2R, ALU opcode 17 (R152). -/
  | cmps (rs1 rs2 : Reg)
  /-- `ASL rd, rs`: format A2R, ALU opcode 18 (R161). -/
  | asl (rd rs : Reg)
  /-- `ASLI rd, #imm14`: format A2I, ALU opcode 19 (R162). -/
  | asli (rd : Reg) (imm14 : BitVec 14)
  /-- `ASR rd, rs`: format A2R, ALU opcode 20 (R163). -/
  | asr (rd rs : Reg)
  /-- `ASRI rd, #imm14`: format A2I, ALU opcode 21 (R164). -/
  | asri (rd : Reg) (imm14 : BitVec 14)
  /-- `LSL rd, rs`: format A2R, ALU opcode 22 (R165). -/
  | lsl (rd rs : Reg)
  /-- `LSLI rd, #imm14`: format A2I, ALU opcode 23 (R166). -/
  | lsli (rd : Reg) (imm14 : BitVec 14)
  /-- `LSR rd, rs`: format A2R, ALU opcode 24 (R167). -/
  | lsr (rd rs : Reg)
  /-- `LSRI rd, #imm14`: format A2I, ALU opcode 25 (R168). -/
  | lsri (rd : Reg) (imm14 : BitVec 14)
  /-- `AND rd, rs1, rs2`: format A3R, ALU opcode 26 (R170). -/
  | and (rd rs1 rs2 : Reg)
  /-- `ANDI rd, rs1, #imm9`: format A3I, ALU opcode 27 (R171). -/
  | andi (rd rs1 : Reg) (imm9 : BitVec 9)
  /-- `OR rd, rs1, rs2`: format A3R, ALU opcode 28 (R172). -/
  | or (rd rs1 rs2 : Reg)
  /-- `ORI rd, rs1, #imm9`: format A3I, ALU opcode 29 (R173). -/
  | ori (rd rs1 : Reg) (imm9 : BitVec 9)
  /-- `XOR rd, rs1, rs2`: format A3R, ALU opcode 30 (R174). -/
  | xor (rd rs1 rs2 : Reg)
  /-- `XORI rd, rs1, #imm9`: format A3I, ALU opcode 31 (R175). -/
  | xori (rd rs1 : Reg) (imm9 : BitVec 9)
  /-- `NOT rd, rs`: format A2R, ALU opcode 32 (R176). -/
  | not (rd rs : Reg)
  /-- `MOV rd, rs`: format A2R, ALU opcode 33 (R130). -/
  | mov (rd rs : Reg)
  /-- `NOP`: format A0, ALU opcode 34 (R193). -/
  | nop
  /-- `LDR rd, [rs]`: format M2R, Memory opcode 0 (R120). -/
  | ldr (rd rs : Reg)
  /-- `LDRI rd, #off`: format M2I, Memory opcode 1 (R121). -/
  | ldri (rd : Reg) (imm17 : BitVec 17)
  /-- `STR rv, [rs]`: format M2R, Memory opcode 2 (R122). -/
  | str (rv rs : Reg)
  /-- `STRI rv, #off`: format M2I, Memory opcode 3 (R123). -/
  | stri (rv : Reg) (imm17 : BitVec 17)
  /-- `JMP[.cc] rs`: format C1R, Control opcode 0 (R181). -/
  | jmp (rs : Reg) (cond : Cond)
  /-- `JMPI[.cc] #off`: format C1I, Control opcode 1 (R182). -/
  | jmpi (imm22 : BitVec 22) (cond : Cond)
  /-- `JMPS[.cc] rs`: format C1R, Control opcode 2 (R183). -/
  | jmps (rs : Reg) (cond : Cond)
  /-- `JMPSI[.cc] #off`: format C1I, Control opcode 3 (R184). -/
  | jmpsi (imm22 : BitVec 22) (cond : Cond)
  /-- `SIH rs`: format C1R, Control opcode 4 (R190). -/
  | sih (rs : Reg)
  /-- `INT #code`: format C1I, Control opcode 5 (R191). -/
  | int (imm22 : BitVec 22)
  /-- `RFI`: format C0, Control opcode 6 (R192). -/
  | rfi
deriving DecidableEq, Repr

/-- The mnemonic of a variant (R100 to R102): the tag `I.op` of R32 without its operands. -/
def Instr.mnemonic : Instr → String
  | .addu _ _ _ => "ADDU"
  | .addui _ _ _ => "ADDUI"
  | .adds _ _ _ => "ADDS"
  | .addsi _ _ _ => "ADDSI"
  | .subu _ _ _ => "SUBU"
  | .subui _ _ _ => "SUBUI"
  | .subs _ _ _ => "SUBS"
  | .subsi _ _ _ => "SUBSI"
  | .mulu _ _ _ => "MULU"
  | .mului _ _ _ => "MULUI"
  | .muls _ _ _ => "MULS"
  | .mulsi _ _ _ => "MULSI"
  | .divu _ _ _ => "DIVU"
  | .divui _ _ _ => "DIVUI"
  | .divs _ _ _ => "DIVS"
  | .divsi _ _ _ => "DIVSI"
  | .cmpu _ _ => "CMPU"
  | .cmps _ _ => "CMPS"
  | .asl _ _ => "ASL"
  | .asli _ _ => "ASLI"
  | .asr _ _ => "ASR"
  | .asri _ _ => "ASRI"
  | .lsl _ _ => "LSL"
  | .lsli _ _ => "LSLI"
  | .lsr _ _ => "LSR"
  | .lsri _ _ => "LSRI"
  | .and _ _ _ => "AND"
  | .andi _ _ _ => "ANDI"
  | .or _ _ _ => "OR"
  | .ori _ _ _ => "ORI"
  | .xor _ _ _ => "XOR"
  | .xori _ _ _ => "XORI"
  | .not _ _ => "NOT"
  | .mov _ _ => "MOV"
  | .nop => "NOP"
  | .ldr _ _ => "LDR"
  | .ldri _ _ => "LDRI"
  | .str _ _ => "STR"
  | .stri _ _ => "STRI"
  | .jmp _ _ => "JMP"
  | .jmpi _ _ => "JMPI"
  | .jmps _ _ => "JMPS"
  | .jmpsi _ _ => "JMPSI"
  | .sih _ => "SIH"
  | .int _ => "INT"
  | .rfi => "RFI"

end Sys2Proof
end

