-- ==== Sys2Proof/Decode.lean ====
section
/-!
DEFINITION. Sys2Proof/Decode.lean: the fields of an instruction word, the decoder and the encoder
(30_encoding.md R90 to R105). The decoder is total on words and rejects the illegal ones by name.
-/

namespace Sys2Proof

/-! ## Fields (R90, R93 to R96) -/

/-- `cond = w[4:0]` (R90). -/
def condField (w : Word) : Cond := w.extractLsb' 0 5
/-- `itype = w[6:5]` (R90, R91). -/
def itypeField (w : Word) : BitVec 2 := w.extractLsb' 5 2
/-- The 6-bit opcode of the ALU type, `w[12:7]` (R90). -/
def opcode6 (w : Word) : BitVec 6 := w.extractLsb' 7 6
/-- The 3-bit opcode of the Memory and Control types, `w[9:7]` (R90). -/
def opcode3 (w : Word) : BitVec 3 := w.extractLsb' 7 3
/-- `w[17:13]`, the first operand of the ALU formats (R94). -/
def aluField1 (w : Word) : Reg := w.extractLsb' 13 5
/-- `w[22:18]`, the second operand of the ALU formats (R94). -/
def aluField2 (w : Word) : Reg := w.extractLsb' 18 5
/-- `w[27:23]`, the third operand of format A3R (R94). -/
def aluField3 (w : Word) : Reg := w.extractLsb' 23 5
/-- `imm9 = w[31:23]` of format A3I (R94). -/
def imm9Field (w : Word) : BitVec 9 := w.extractLsb' 23 9
/-- `imm14 = w[31:18]` of format A2I (R94). -/
def imm14Field (w : Word) : BitVec 14 := w.extractLsb' 18 14
/-- `w[14:10]`, the first operand of the Memory formats and of C1R (R95, R96). -/
def memField1 (w : Word) : Reg := w.extractLsb' 10 5
/-- `w[19:15]`, the address register of format M2R (R95). -/
def memField2 (w : Word) : Reg := w.extractLsb' 15 5
/-- `imm17 = w[31:15]` of format M2I (R95). -/
def imm17Field (w : Word) : BitVec 17 := w.extractLsb' 15 17
/-- `imm22 = w[31:10]` of format C1I (R96). -/
def imm22Field (w : Word) : BitVec 22 := w.extractLsb' 10 22

/-! ## The decoder (R100 to R105) -/

/-- Why a word is illegal (R104). Each is the DecodeError of R241. -/
inductive DecodeRefusal where
  /-- Instruction type 3, "reserved-Graphics", whatever the other bits (R104, U1). -/
  | reservedGraphics
  /-- ALU opcode 35 to 63 (R104, U2). -/
  | unassignedAlu (opcode : BitVec 6)
  /-- Memory opcode 4 to 7 (R104, U2). -/
  | unassignedMemory (opcode : BitVec 3)
  /-- Control opcode 7 (R104, U2). -/
  | unassignedControl (opcode : BitVec 3)
deriving DecidableEq, Repr

/-- The ALU opcode map (R100). -/
def decodeAlu (w : Word) : Except DecodeRefusal Instr :=
  match opcode6 w with
  | 0#6 => .ok (.addu (aluField1 w) (aluField2 w) (aluField3 w))
  | 1#6 => .ok (.addui (aluField1 w) (aluField2 w) (imm9Field w))
  | 2#6 => .ok (.adds (aluField1 w) (aluField2 w) (aluField3 w))
  | 3#6 => .ok (.addsi (aluField1 w) (aluField2 w) (imm9Field w))
  | 4#6 => .ok (.subu (aluField1 w) (aluField2 w) (aluField3 w))
  | 5#6 => .ok (.subui (aluField1 w) (aluField2 w) (imm9Field w))
  | 6#6 => .ok (.subs (aluField1 w) (aluField2 w) (aluField3 w))
  | 7#6 => .ok (.subsi (aluField1 w) (aluField2 w) (imm9Field w))
  | 8#6 => .ok (.mulu (aluField1 w) (aluField2 w) (aluField3 w))
  | 9#6 => .ok (.mului (aluField1 w) (aluField2 w) (imm9Field w))
  | 10#6 => .ok (.muls (aluField1 w) (aluField2 w) (aluField3 w))
  | 11#6 => .ok (.mulsi (aluField1 w) (aluField2 w) (imm9Field w))
  | 12#6 => .ok (.divu (aluField1 w) (aluField2 w) (aluField3 w))
  | 13#6 => .ok (.divui (aluField1 w) (aluField2 w) (imm9Field w))
  | 14#6 => .ok (.divs (aluField1 w) (aluField2 w) (aluField3 w))
  | 15#6 => .ok (.divsi (aluField1 w) (aluField2 w) (imm9Field w))
  | 16#6 => .ok (.cmpu (aluField1 w) (aluField2 w))
  | 17#6 => .ok (.cmps (aluField1 w) (aluField2 w))
  | 18#6 => .ok (.asl (aluField1 w) (aluField2 w))
  | 19#6 => .ok (.asli (aluField1 w) (imm14Field w))
  | 20#6 => .ok (.asr (aluField1 w) (aluField2 w))
  | 21#6 => .ok (.asri (aluField1 w) (imm14Field w))
  | 22#6 => .ok (.lsl (aluField1 w) (aluField2 w))
  | 23#6 => .ok (.lsli (aluField1 w) (imm14Field w))
  | 24#6 => .ok (.lsr (aluField1 w) (aluField2 w))
  | 25#6 => .ok (.lsri (aluField1 w) (imm14Field w))
  | 26#6 => .ok (.and (aluField1 w) (aluField2 w) (aluField3 w))
  | 27#6 => .ok (.andi (aluField1 w) (aluField2 w) (imm9Field w))
  | 28#6 => .ok (.or (aluField1 w) (aluField2 w) (aluField3 w))
  | 29#6 => .ok (.ori (aluField1 w) (aluField2 w) (imm9Field w))
  | 30#6 => .ok (.xor (aluField1 w) (aluField2 w) (aluField3 w))
  | 31#6 => .ok (.xori (aluField1 w) (aluField2 w) (imm9Field w))
  | 32#6 => .ok (.not (aluField1 w) (aluField2 w))
  | 33#6 => .ok (.mov (aluField1 w) (aluField2 w))
  | 34#6 => .ok .nop
  | _ => .error (.unassignedAlu (opcode6 w))

/-- The Memory opcode map (R101). -/
def decodeMemory (w : Word) : Except DecodeRefusal Instr :=
  match opcode3 w with
  | 0#3 => .ok (.ldr (memField1 w) (memField2 w))
  | 1#3 => .ok (.ldri (memField1 w) (imm17Field w))
  | 2#3 => .ok (.str (memField1 w) (memField2 w))
  | 3#3 => .ok (.stri (memField1 w) (imm17Field w))
  | _ => .error (.unassignedMemory (opcode3 w))

/-- The Control opcode map (R102). -/
def decodeControl (w : Word) : Except DecodeRefusal Instr :=
  match opcode3 w with
  | 0#3 => .ok (.jmp (memField1 w) (condField w))
  | 1#3 => .ok (.jmpi (imm22Field w) (condField w))
  | 2#3 => .ok (.jmps (memField1 w) (condField w))
  | 3#3 => .ok (.jmpsi (imm22Field w) (condField w))
  | 4#3 => .ok (.sih (memField1 w))
  | 5#3 => .ok (.int (imm22Field w))
  | 6#3 => .ok .rfi
  | _ => .error (.unassignedControl (opcode3 w))

/-- The decode procedure (R103): the variant is picked by (itype, opcode) alone; every bit its format does not use is
ignored (R105). The fetch stage never hands it the word 0 (R106, R206; log entry 10). -/
def decodeWord (w : Word) : Except DecodeRefusal Instr :=
  match itypeField w with
  | 0#2 => decodeAlu w
  | 1#2 => decodeMemory w
  | 2#2 => decodeControl w
  | _ => .error .reservedGraphics

/-- The instruction the decoder reads from a table word: one instruction is one 32-bit word (R92). -/
def decodeTableWord (nbits w : Nat) : Option Instr :=
  match decodeWord (BitVec.ofNat 32 (w % 2 ^ nbits)) with
  | .ok i => some i
  | .error _ => none

/-- The bits of a word that its decoding reads: type, opcode, the operands of its format, and the condition of a jump.
Every other bit is ignored (R105, U3). -/
def usedBits : Instr → Word
  | .addu _ _ _ => 0x0FFFFFE0#32
  | .addui _ _ _ => 0xFFFFFFE0#32
  | .adds _ _ _ => 0x0FFFFFE0#32
  | .addsi _ _ _ => 0xFFFFFFE0#32
  | .subu _ _ _ => 0x0FFFFFE0#32
  | .subui _ _ _ => 0xFFFFFFE0#32
  | .subs _ _ _ => 0x0FFFFFE0#32
  | .subsi _ _ _ => 0xFFFFFFE0#32
  | .mulu _ _ _ => 0x0FFFFFE0#32
  | .mului _ _ _ => 0xFFFFFFE0#32
  | .muls _ _ _ => 0x0FFFFFE0#32
  | .mulsi _ _ _ => 0xFFFFFFE0#32
  | .divu _ _ _ => 0x0FFFFFE0#32
  | .divui _ _ _ => 0xFFFFFFE0#32
  | .divs _ _ _ => 0x0FFFFFE0#32
  | .divsi _ _ _ => 0xFFFFFFE0#32
  | .cmpu _ _ => 0x007FFFE0#32
  | .cmps _ _ => 0x007FFFE0#32
  | .asl _ _ => 0x007FFFE0#32
  | .asli _ _ => 0xFFFFFFE0#32
  | .asr _ _ => 0x007FFFE0#32
  | .asri _ _ => 0xFFFFFFE0#32
  | .lsl _ _ => 0x007FFFE0#32
  | .lsli _ _ => 0xFFFFFFE0#32
  | .lsr _ _ => 0x007FFFE0#32
  | .lsri _ _ => 0xFFFFFFE0#32
  | .and _ _ _ => 0x0FFFFFE0#32
  | .andi _ _ _ => 0xFFFFFFE0#32
  | .or _ _ _ => 0x0FFFFFE0#32
  | .ori _ _ _ => 0xFFFFFFE0#32
  | .xor _ _ _ => 0x0FFFFFE0#32
  | .xori _ _ _ => 0xFFFFFFE0#32
  | .not _ _ => 0x007FFFE0#32
  | .mov _ _ => 0x007FFFE0#32
  | .nop => 0x00001FE0#32
  | .ldr _ _ => 0x000FFFE0#32
  | .ldri _ _ => 0xFFFFFFE0#32
  | .str _ _ => 0x000FFFE0#32
  | .stri _ _ => 0xFFFFFFE0#32
  | .jmp _ _ => 0x00007FFF#32
  | .jmpi _ _ => 0xFFFFFFFF#32
  | .jmps _ _ => 0x00007FFF#32
  | .jmpsi _ _ => 0xFFFFFFFF#32
  | .sih _ => 0x00007FE0#32
  | .int _ => 0xFFFFFFE0#32
  | .rfi => 0x000003E0#32

/-! ## The encoder (R93 to R96): unused bits 0, as an assembler writes them (R105) -/

/-- Format A3R (R94). -/
def encodeA3R (op : BitVec 6) (rd rs1 rs2 : Reg) : Word := 0#4 ++ rs2 ++ rs1 ++ rd ++ op ++ 0#2 ++ 0#5
/-- Format A3I (R94). -/
def encodeA3I (op : BitVec 6) (rd rs1 : Reg) (imm : BitVec 9) : Word := imm ++ rs1 ++ rd ++ op ++ 0#2 ++ 0#5
/-- Format A2R (R94). -/
def encodeA2R (op : BitVec 6) (f1 f2 : Reg) : Word := 0#9 ++ f2 ++ f1 ++ op ++ 0#2 ++ 0#5
/-- Format A2I (R94). -/
def encodeA2I (op : BitVec 6) (rd : Reg) (imm : BitVec 14) : Word := imm ++ rd ++ op ++ 0#2 ++ 0#5
/-- Format A0 (R94). -/
def encodeA0 (op : BitVec 6) : Word := 0#19 ++ op ++ 0#2 ++ 0#5
/-- Format M2R (R95). -/
def encodeM2R (op : BitVec 3) (f1 rs : Reg) : Word := 0#12 ++ rs ++ f1 ++ op ++ 1#2 ++ 0#5
/-- Format M2I (R95). -/
def encodeM2I (op : BitVec 3) (f1 : Reg) (imm : BitVec 17) : Word := imm ++ f1 ++ op ++ 1#2 ++ 0#5
/-- Format C1R (R96). -/
def encodeC1R (op : BitVec 3) (rs : Reg) (cond : Cond) : Word := 0#17 ++ rs ++ op ++ 2#2 ++ cond
/-- Format C1I (R96). -/
def encodeC1I (op : BitVec 3) (imm : BitVec 22) (cond : Cond) : Word := imm ++ op ++ 2#2 ++ cond
/-- Format C0 (R96). -/
def encodeC0 (op : BitVec 3) : Word := 0#22 ++ op ++ 2#2 ++ 0#5

/-- The canonical word of an instruction. -/
def encode : Instr → Word
  | .addu rd rs1 rs2 => encodeA3R 0#6 rd rs1 rs2
  | .addui rd rs1 imm9 => encodeA3I 1#6 rd rs1 imm9
  | .adds rd rs1 rs2 => encodeA3R 2#6 rd rs1 rs2
  | .addsi rd rs1 imm9 => encodeA3I 3#6 rd rs1 imm9
  | .subu rd rs1 rs2 => encodeA3R 4#6 rd rs1 rs2
  | .subui rd rs1 imm9 => encodeA3I 5#6 rd rs1 imm9
  | .subs rd rs1 rs2 => encodeA3R 6#6 rd rs1 rs2
  | .subsi rd rs1 imm9 => encodeA3I 7#6 rd rs1 imm9
  | .mulu rd rs1 rs2 => encodeA3R 8#6 rd rs1 rs2
  | .mului rd rs1 imm9 => encodeA3I 9#6 rd rs1 imm9
  | .muls rd rs1 rs2 => encodeA3R 10#6 rd rs1 rs2
  | .mulsi rd rs1 imm9 => encodeA3I 11#6 rd rs1 imm9
  | .divu rd rs1 rs2 => encodeA3R 12#6 rd rs1 rs2
  | .divui rd rs1 imm9 => encodeA3I 13#6 rd rs1 imm9
  | .divs rd rs1 rs2 => encodeA3R 14#6 rd rs1 rs2
  | .divsi rd rs1 imm9 => encodeA3I 15#6 rd rs1 imm9
  | .cmpu rs1 rs2 => encodeA2R 16#6 rs1 rs2
  | .cmps rs1 rs2 => encodeA2R 17#6 rs1 rs2
  | .asl rd rs => encodeA2R 18#6 rd rs
  | .asli rd imm14 => encodeA2I 19#6 rd imm14
  | .asr rd rs => encodeA2R 20#6 rd rs
  | .asri rd imm14 => encodeA2I 21#6 rd imm14
  | .lsl rd rs => encodeA2R 22#6 rd rs
  | .lsli rd imm14 => encodeA2I 23#6 rd imm14
  | .lsr rd rs => encodeA2R 24#6 rd rs
  | .lsri rd imm14 => encodeA2I 25#6 rd imm14
  | .and rd rs1 rs2 => encodeA3R 26#6 rd rs1 rs2
  | .andi rd rs1 imm9 => encodeA3I 27#6 rd rs1 imm9
  | .or rd rs1 rs2 => encodeA3R 28#6 rd rs1 rs2
  | .ori rd rs1 imm9 => encodeA3I 29#6 rd rs1 imm9
  | .xor rd rs1 rs2 => encodeA3R 30#6 rd rs1 rs2
  | .xori rd rs1 imm9 => encodeA3I 31#6 rd rs1 imm9
  | .not rd rs => encodeA2R 32#6 rd rs
  | .mov rd rs => encodeA2R 33#6 rd rs
  | .nop => encodeA0 34#6
  | .ldr rd rs => encodeM2R 0#3 rd rs
  | .ldri rd imm17 => encodeM2I 1#3 rd imm17
  | .str rv rs => encodeM2R 2#3 rv rs
  | .stri rv imm17 => encodeM2I 3#3 rv imm17
  | .jmp rs cond => encodeC1R 0#3 rs cond
  | .jmpi imm22 cond => encodeC1I 1#3 imm22 cond
  | .jmps rs cond => encodeC1R 2#3 rs cond
  | .jmpsi imm22 cond => encodeC1I 3#3 imm22 cond
  | .sih rs => encodeC1R 4#3 rs 0#5
  | .int imm22 => encodeC1I 5#3 imm22 0#5
  | .rfi => encodeC0 6#3

end Sys2Proof
end

