-- ==== Sys2Proof/Config.lean ====
section
/-!
DEFINITION. Sys2Proof/Config.lean: the parameters of one instance (00_scope.md R6; D21, D27).

They are plain data that the state carries and no step changes, so that a statement about every state is a statement
about every instance. The spec leaves no result open, so this file holds no free value.
-/

namespace Sys2Proof

/-- One cache level: `LINES[l]` and `DELAY[l]` (R6, R55). -/
structure CacheParams where
  /-- `LINES[l]`; legal values are the powers of two from 1 (`CacheParams.wellFormed`). -/
  lineCount : Nat
  /-- `DELAY[l]`, the fixed delay of every access to this level, in simulated cycles. -/
  delay : Nat
deriving DecidableEq, Repr

/-- The instance parameters of R6. -/
structure Config where
  /-- The cache levels, level 1 (nearest the control unit) first; `N_LEVELS` is the length, at most 3. -/
  levels : List CacheParams
  /-- `DRAM_DELAY` (R54). -/
  dramDelay : Nat
  /-- `INT_CODE_ADDR`, where INT records its code (R78, R191). -/
  intCodeAddr : Word
deriving DecidableEq, Repr

/-- `N_LEVELS` (R6). -/
def Config.nLevels (c : Config) : Nat := c.levels.length

/-- The instance of `State.reset`: flat memory, `DRAM_DELAY = 100`, the spec's default `INT_CODE_ADDR` (R6).
DESIGN CHOICE, unsafe for claims about cycle totals from `State.reset` (log entry 1): R6 leaves the first two to the
instance; these are the values 95_test_vectors.md starts from. -/
def Config.default : Config :=
  { levels := [], dramDelay := 100, intCodeAddr := 0xFFFFFFFF#32 }

end Sys2Proof
end

