-- ==== Sys2Proof/Machine/State.lean ====
section
/-!
DEFINITION. Sys2Proof/Machine/State.lean: the state of the block (10_state.md), its faults and refusals, and reset
(R41, R270). Everything here is plain data.
-/

namespace Sys2Proof.Machine

/-! ## Names of stages, run states and faults -/

/-- The five stages, in the order in which `step()` visits them (R201); a fault record names one (R37). -/
inductive Stage where
  | writeBack
  | accessMemory
  | execute
  | decode
  | fetch
deriving DecidableEq, Repr

/-- The four operations an instruction rule gives (R10). `State.stageOp` says which of them `exec` performs. -/
inductive StageOp where
  | writeBack
  | accessMemory
  | execute
  | decode
deriving DecidableEq, Repr

/-- `run_state` (R37, R215). -/
inductive RunState where
  | idle
  | running
  | halted
  | faulted
deriving DecidableEq, Repr

/-- The fault kinds of R241. -/
inductive FaultKind where
  | decodeError
  | memoryError
  | arithmeticError
  | loadError
deriving DecidableEq, Repr

/-- The fault record `{kind, stage, word, addr}` (R37, R220). -/
structure FaultRecord where
  kind : FaultKind
  stage : Stage
  /-- The instruction word of the failing instruction; 0 for a fetch fault (R220). -/
  word : Word
  /-- The offending address of a memory fault; otherwise 0 (R220). -/
  addr : Word
deriving DecidableEq, Repr

/-- The `Err` of a stage operation (R34, R240), and of the image loader. No operation of the machine ANSWERS one: an `Err`
of a stage operation is taken (`State.abort`), and the machine is then FAULTED, a next state (R212, R215); the loader
reports its own beside the next state (`hostLoadImage`). -/
inductive Fault where
  /-- Raised by the decode action for an illegal word (R104, R241). Safe: the spec's own fault. -/
  | decodeError (word : Word)
  /-- Raised by a memory operation of LDR, LDRI, STR, STRI, INT or of the fetch (R241). Safe: the spec's own fault,
  unreachable over the DRAM of R54 (R242). -/
  | memoryError (stage : Stage) (word addr : Word)
  /-- Raised by the execute operation of DIVU, DIVUI, DIVS, DIVSI when operand 2 is zero (R241, R244). Safe: the spec's
  own fault. -/
  | arithmeticError (word : Word)
  /-- Raised by the image loader for a malformed length or an input that cannot be read (R76, R243), and reported by it to
  the host (R241). Safe: the spec's own fault; the machine stays in IDLE (log entry 13). -/
  | loadError
deriving DecidableEq, Repr

/-- Stops of the model that are not faults of the hardware. No step of a machine that keeps `State.Inv` meets one. -/
inductive Refusal where
  /-- An instruction without a meaning in this model. No arm of `exec` answers it: all 46 have their meaning. Safe. -/
  | notModelled (mnemonic : String)
  /-- `exec` was asked for a stage operation whose input slot is empty. `step` never asks (R201). Safe; log entry 11. -/
  | emptySlot (stage : StageOp)
  /-- A stage operation met a field of its record that is `none`; "no rule reads a field of a variant for which that
  variant's rule leaves it `none`" (R33), so no step meets it. Safe; log entry 11. -/
  | unsetField (stage : StageOp)
  /-- Raised by a host action outside IDLE that R222 allows in IDLE only (U17). Safe. -/
  | hostActionOutsideIdle
  /-- Raised by an image load while a cache line is valid: "loading happens only between reset and the first step, while
  every cache line is invalid" (R76). Safe; log entry 18. -/
  | loadOverValidLine
  /-- Raised by an image load after a LoadError: "the machine must be reset before another attempt" (R243). Safe; log
  entry 13. -/
  | loadBeforeReset
  /-- Raised by the image loader for an image of more than 2^32 words, whose last words have no address (R76). Safe;
  log entry 16. -/
  | imageTooLong
deriving DecidableEq, Repr

/-! ## Pipeline records -/

/-- The instruction-in-flight record (R32). `none` is the "not set" sentinel (R33). -/
structure InFlight where
  /-- `I.word`: the instruction word, kept for fault reports and views. -/
  word : Word
  /-- `I.op`: the variant tag. It holds the decoded instruction whole (D35; log entry 12); the later stage operations
  use the record's own fields only. -/
  op : Instr
  /-- `I.cond = word[4:0]`; meaningful for the four jumps only. -/
  cond : Cond
  /-- `I.rd`: destination register index. -/
  rd : Option Reg
  /-- `I.a`: first source value. -/
  a : Option Word
  /-- `I.b`: second source value, or the extended immediate. -/
  b : Option Word
  /-- `I.addr`: memory address of a load or store, or target of a jump. -/
  addr : Option Word
  /-- `I.res`: the ALU result, or the word a load read. -/
  res : Option Word
deriving DecidableEq, Repr

/-- The record decode builds before the variant's own decode operation runs (R103). -/
def InFlight.blank (i : Instr) (word : Word) (cond : Cond) : InFlight :=
  { word := word, op := i, cond := cond, rd := none, a := none, b := none, addr := none, res := none }

/-! ## Memory -/

/-- The contents of DRAM, one canonical list (`Memory.wf`): word address `a` is the four bytes at `4a .. 4a+3`, the
order of the image (R76), and an unlisted byte reads 0 ("an unread/unwritten address implicitly holds 0", R38).
That a word is held as bytes is DESIGN CHOICE, safe (log entry 5). -/
abbrev Memory := List Host.Cell

/-- The backing store: its values, and the set of addresses that are in `dram.map` (R38; log entry 6). -/
structure Dram where
  mem : Memory
  /-- The word addresses in `dram.map`, strictly rising. `inspect()` alone sees them (R38, R77). -/
  present : List Nat
deriving DecidableEq, Repr

/-- The contents of a valid cache line (R39). -/
structure Line where
  tag : Nat
  data : Word
  dirty : Bool
deriving DecidableEq, Repr

/-- The valid lines of one cache level by index, strictly rising; an index that is not listed has `valid = 0`, and its
other fields have no meaning (R39, U12; log entry 7). -/
abbrev Store := List (Nat × Line)

/-- The memory chain's state: the cache levels, level 1 first, in front of DRAM (R65). -/
structure Chain where
  stores : List Store
  dram : Dram
deriving DecidableEq, Repr

/-! ## The state -/

/-- The state of the block. -/
structure State where
  /-- The register file `x[0] .. x[31]` (R20). -/
  regs : Vector Word 32
  /-- `slot.F` (R30). -/
  slotF : Option Word
  /-- `slot.D` (R30). -/
  slotD : Option InFlight
  /-- `slot.X` (R30). -/
  slotX : Option InFlight
  /-- `slot.M` (R30). -/
  slotM : Option InFlight
  /-- `slot.W` (R30, R31). -/
  slotW : Option InFlight
  /-- The memory chain (R38, R39). -/
  chain : Chain
  /-- `cycle_count` (R36). -/
  cycleCount : Count
  /-- `step_count` (R36). -/
  stepCount : Count
  /-- `run_state` (R37). -/
  runState : RunState
  /-- The `running` output: the value the last completed step returned (R220). -/
  running : Bool
  /-- The fault record (R37); `none` while it is cleared. -/
  faultRecord : Option FaultRecord
  /-- A LoadError has left `dram.map` partly written: "the machine must be reset before another attempt" (R76, R243;
  log entry 13). -/
  loadFailed : Bool
  /-- The parameters of the instance (R6). No step changes them. -/
  config : Config
  /-- The MODEL's own field: the stage operation `exec` performs; `decode` between steps (log entry 2). -/
  stageOp : StageOp
deriving DecidableEq, Repr

/-- The machine right after reset (R41, R270), for the instance `c`. -/
def State.resetWith (c : Config) : State :=
  { regs := Vector.replicate 32 0#32
    slotF := none, slotD := none, slotX := none, slotM := none, slotW := none
    chain := { stores := c.levels.map fun _ => [], dram := { mem := [], present := [] } }
    cycleCount := 0, stepCount := 0
    runState := .idle, running := false, faultRecord := none, loadFailed := false
    config := c, stageOp := .decode }

/-- The machine right after reset, for the instance `Config.default` (DESIGN CHOICE; log entry 1). -/
def State.reset : State := State.resetWith Config.default

end Sys2Proof.Machine
end

