-- ==== Sys2Proof/Machine/Memory.lean ====
section
/-!
DEFINITION. Sys2Proof/Machine/Memory.lean: Timed results, DRAM, the direct-mapped write-back caches and the chain
(20_memory.md), and the memory view (R67).
-/

namespace Sys2Proof.Machine

/-! ## Timed results (R34, R35) -/

/-- "The uniform outcome type expressing either failure or a value plus remaining simulated latency" (R34). -/
inductive Timed (α : Type) where
  | err (reason : FaultKind)
  | wait (cycles : Nat) (value : α)
deriving DecidableEq, Repr

/-- `ready()`: no rule consults it (R34). -/
def Timed.ready {α : Type} : Timed α → Bool
  | .err _ => false
  | .wait cycles _ => cycles == 0

/-- The result of an operation that is charged `n` cycles before its own. -/
def Timed.delayed {α : Type} (n : Nat) : Timed α → Timed α
  | .err r => .err r
  | .wait c v => .wait (n + c) v

/-- Composition: the latencies add, a failure charges nothing further (R35). -/
def Timed.andThen {α β : Type} (x : Timed α) (f : α → Timed β) : Timed β :=
  match x with
  | .err r => .err r
  | .wait c v => (f v).delayed c

/-! ## Sorted association lists -/

/-- The value at a key. -/
def assocFind {α : Type} : List (Nat × α) → Nat → Option α
  | [], _ => none
  | (j, x) :: r, k => if j = k then some x else assocFind r k

/-- Set the value at a key, keeping the keys rising. -/
def assocPut {α : Type} : List (Nat × α) → Nat → α → List (Nat × α)
  | [], k, v => [(k, v)]
  | (j, x) :: r, k, v =>
    if k < j then (k, v) :: (j, x) :: r
    else if k = j then (k, v) :: r
    else (j, x) :: assocPut r k v

/-- Remove a key. -/
def assocErase {α : Type} : List (Nat × α) → Nat → List (Nat × α)
  | [], _ => []
  | (j, x) :: r, k => if j = k then r else (j, x) :: assocErase r k

/-- The keys rise strictly. -/
def assocSorted {α : Type} (l : List (Nat × α)) : Bool := decide ((l.map Prod.fst).Pairwise (· < ·))

/-- Add a member to a strictly rising list. -/
def insertKey : List Nat → Nat → List Nat
  | [], k => [k]
  | j :: r, k => if k < j then k :: j :: r else if k = j then j :: r else j :: insertKey r k

/-! ## Bytes and words of the image order (R73, R76) -/

/-- Byte `k` of a word, byte 0 first: big-endian (R76). -/
def byteOf (w : Word) (k : Nat) : Byte := w.extractLsb' (8 * (3 - k)) 8

/-- `{b0, b1, b2, b3}`, "first byte in bits 31 to 24" (R76). -/
def wordOfBytes (b0 b1 b2 b3 : Byte) : Word := b0 ++ b1 ++ b2 ++ b3

/-! ## DRAM contents -/

/-- The canonical form: byte addresses strictly rising, no byte equal to what an unlisted one reads as. -/
def Memory.wf (m : Memory) : Bool := assocSorted m && m.all fun c => c.2 != 0#8

/-- One byte; an unlisted one reads 0 (R38). -/
def Memory.readByte (m : Memory) (k : Nat) : Byte := (assocFind m k).getD 0#8

/-- Set one byte, keeping the canonical form. -/
def Memory.writeByte (m : Memory) (k : Nat) (v : Byte) : Memory :=
  if v = 0#8 then assocErase m k else assocPut m k v

/-- The word at word address `a`. -/
def Memory.readWord (m : Memory) (a : Nat) : Word :=
  wordOfBytes (Memory.readByte m (4 * a)) (Memory.readByte m (4 * a + 1)) (Memory.readByte m (4 * a + 2))
    (Memory.readByte m (4 * a + 3))

/-- Set the word at word address `a`. -/
def Memory.writeWord (m : Memory) (a : Nat) (w : Word) : Memory :=
  Memory.writeByte
    (Memory.writeByte (Memory.writeByte (Memory.writeByte m (4 * a) (byteOf w 0)) (4 * a + 1) (byteOf w 1)) (4 * a + 2)
      (byteOf w 2))
    (4 * a + 3) (byteOf w 3)

/-! ## DRAM, the terminal level (R52 to R54) -/

/-- DRAM `get`: an absent address is added with value 0; never fails (R52, R54). -/
def Dram.get (delay : Nat) (d : Dram) (a : Word) : Timed Word × Dram :=
  (.wait delay (Memory.readWord d.mem a.toNat), { d with present := insertKey d.present a.toNat })

/-- DRAM `set`: "always succeeds" (R53). -/
def Dram.set (delay : Nat) (d : Dram) (a v : Word) : Timed Unit × Dram :=
  (.wait delay (), { mem := Memory.writeWord d.mem a.toNat v, present := insertKey d.present a.toNat })

/-- `dram.map` as `inspect()` returns it (R77): the addresses in the map, with DRAM's values. -/
def Dram.inspect (d : Dram) : List (Nat × Word) := d.present.map fun a => (a, Memory.readWord d.mem a)

/-- DRAM's own form: canonical contents; the map's addresses rise, are 32-bit, and include every byte listed. -/
def Dram.wf (d : Dram) : Bool :=
  Memory.wf d.mem && decide (d.present.Pairwise (· < ·)) && d.present.all (fun a => decide (a < 2 ^ 32)) &&
    d.mem.all fun c => d.present.contains (c.1 / 4)

end Sys2Proof.Machine

namespace Sys2Proof

/-! ## Address decomposition (R56) -/

/-- `index(a)`: the `log2(LINES)` low bits of the address, that is the remainder by a power of two (R56). -/
def CacheParams.index (p : CacheParams) (a : Word) : Nat := a.toNat % p.lineCount

/-- `tag(a) = address >> log2(line_count)` (R56). -/
def CacheParams.tag (p : CacheParams) (a : Word) : Nat := a.toNat / p.lineCount

/-- The address a valid line stands for: `(t << k) | i` (R56, R61). -/
def CacheParams.address (p : CacheParams) (tag index : Nat) : Word := BitVec.ofNat 32 (tag * p.lineCount + index)

end Sys2Proof

namespace Sys2Proof.Machine

/-! ## One cache level (R55 to R62) -/

/-- The valid line at the address's index, if its tag matches: a hit (R57, R59). -/
def Store.hit (p : CacheParams) (st : Store) (a : Word) : Option Line :=
  match assocFind st (p.index a) with
  | some l => if l.tag = p.tag a then some l else none
  | none => none

/-- What the eviction step must forward: the occupying line "is valid, has a different tag, and is dirty" (R61). -/
def Store.victim (p : CacheParams) (st : Store) (a : Word) : Option (Word × Word) :=
  match assocFind st (p.index a) with
  | some l => if l.tag ≠ p.tag a ∧ l.dirty = true then some (p.address l.tag (p.index a), l.data) else none
  | none => none

/-- Overwrite the line at the address's index (R58 action 4, R59, R60 action 3). -/
def Store.fill (p : CacheParams) (st : Store) (a v : Word) (dirty : Bool) : Store :=
  assocPut st (p.index a) { tag := p.tag a, data := v, dirty := dirty }

/-! ## The chain (R58 to R65)

Levels that are still to come are `ps`, their contents `sts`; a level with no contents listed has no valid line. -/

/-- `set` on the head of a chain (R53, R59, R60, R61). When the eviction fails, the line keeps its content (R64). -/
def chainSet (dramDelay : Nat) : List CacheParams → List Store → Dram → Word → Word → Timed Unit × List Store × Dram
  | [], sts, d, a, v =>
    let r := d.set dramDelay a v
    (r.1, sts, r.2)
  | p :: ps, sts, d, a, v =>
    let st := sts.headD []
    match Store.hit p st a with
    | some _ => (.wait p.delay (), Store.fill p st a v true :: sts.tail, d)
    | none =>
      match Store.victim p st a with
      | none => (.wait p.delay (), Store.fill p st a v true :: sts.tail, d)
      | some (va, vd) =>
        match chainSet dramDelay ps sts.tail d va vd with
        | (.err r, sts', d') => (.err r, st :: sts', d')
        | (.wait e _, sts', d') =>
          ((Timed.wait p.delay ()).andThen fun _ => .wait e (), Store.fill p st a v true :: sts', d')

/-- The eviction step on the levels below (R61): it forwards the victim, if there is one. -/
def chainEvict (dramDelay : Nat) (ps : List CacheParams) (sts : List Store) (d : Dram) :
    Option (Word × Word) → Timed Unit × List Store × Dram
  | none => (.wait 0 (), sts, d)
  | some (va, vd) => chainSet dramDelay ps sts d va vd

/-- `get` on the head of a chain (R52, R57, R58, R61). A failure below leaves the line as it was (R64). -/
def chainGet (dramDelay : Nat) : List CacheParams → List Store → Dram → Word → Timed Word × List Store × Dram
  | [], sts, d, a =>
    let r := d.get dramDelay a
    (r.1, sts, r.2)
  | p :: ps, sts, d, a =>
    let st := sts.headD []
    match Store.hit p st a with
    | some l => (.wait p.delay l.data, sts, d)
    | none =>
      match chainEvict dramDelay ps sts.tail d (Store.victim p st a) with
      | (.err r, sts', d') => (.err r, st :: sts', d')
      | (.wait e _, sts', d') =>
        match chainGet dramDelay ps sts' d' a with
        | (.err r, sts'', d'') => (.err r, st :: sts'', d'')
        | (.wait g v, sts'', d'') =>
          ((Timed.wait p.delay ()).andThen fun _ => (Timed.wait e ()).andThen fun _ => .wait g v,
            Store.fill p st a v false :: sts'', d'')

/-- `View(V, a)` (R67): what a `get` at this level delivers. -/
def chainView : List CacheParams → List Store → Memory → Word → Word
  | [], _, m, a => Memory.readWord m a.toNat
  | p :: ps, sts, m, a =>
    match Store.hit p (sts.headD []) a with
    | some l => l.data
    | none => chainView ps sts.tail m a

/-! ## The control unit's memory port (R71) -/

/-- `MemRead(a, 32)`: `get` on the head of the chain (R9, R71). -/
def Chain.memRead (c : Config) (ch : Chain) (a : Word) : Timed Word × Chain :=
  let r := chainGet c.dramDelay c.levels ch.stores ch.dram a
  (r.1, { stores := r.2.1, dram := r.2.2 })

/-- `MemWrite(a, 32, v)`: `set` on the head of the chain (R9, R71). -/
def Chain.memWrite (c : Config) (ch : Chain) (a v : Word) : Timed Unit × Chain :=
  let r := chainSet c.dramDelay c.levels ch.stores ch.dram a v
  (r.1, { stores := r.2.1, dram := r.2.2 })

/-- `Mem(a)` (R67): the memory a program sees. -/
def Chain.view (c : Config) (ch : Chain) (a : Word) : Word := chainView c.levels ch.stores ch.dram.mem a

/-- `Mem(a)` in a state (R67). -/
def State.mem (s : State) (a : Word) : Word := s.chain.view s.config a

end Sys2Proof.Machine
end

