-- ==== Sys2Proof/Machine/Ops.lean ====
section
/-!
DEFINITION. Sys2Proof/Machine/Ops.lean: the named operations over registers and memory that the meanings share: the
register file, one stage operation of one instruction, the memory accesses, the write-backs, entering and leaving a
software interrupt, and entering FAULTED.
-/

namespace Sys2Proof.Machine

/-! ## The register file (R20, R22) -/

/-- The register file. -/
abbrev Regs := Vector Word 32

/-- `read(index)` (R22). -/
def readReg (x : Regs) (r : Reg) : Word := x[r.toNat]'r.isLt

/-- `write(index, value)`: "any index write is visible to the next read" (R22); no register is hardwired (R23). -/
def writeReg (x : Regs) (r : Reg) (v : Word) : Regs := x.set r.toNat v r.isLt

/-- `x[r]` of a state. -/
def State.reg (s : State) (r : Reg) : Word := readReg s.regs r

/-- The state after `x[r] <- v`. -/
def State.setReg (s : State) (r : Reg) (v : Word) : State := { s with regs := writeReg s.regs r v }

/-! ## Taking a fault (R212, R213, R215, R241) -/

/-- The code of the `fault_kind` port (R241). -/
def FaultKind.code : FaultKind → BitVec 3
  | .decodeError => 1
  | .memoryError => 2
  | .arithmeticError => 3
  | .loadError => 4

/-- The code of the `fault_stage` port (R220). -/
def Stage.code : Stage → BitVec 3
  | .writeBack => 1
  | .accessMemory => 2
  | .execute => 3
  | .decode => 4
  | .fetch => 5

/-- What a fault records (R241). A LoadError is not presented on the fault ports. -/
def Fault.record : Fault → Option FaultRecord
  | .decodeError w => some { kind := .decodeError, stage := .decode, word := w, addr := 0#32 }
  | .memoryError st w a => some { kind := .memoryError, stage := st, word := w, addr := a }
  | .arithmeticError w => some { kind := .arithmeticError, stage := .execute, word := w, addr := 0#32 }
  | .loadError => none

/-- Taking a fault: the one shared operation. The machine enters FAULTED and the fault record is written; every register,
slot, memory word and counter stays as the completed operations left it (R212, R213, R215). A FAULTED machine is left by
reset only, so there is no return from it. (`stageOp`, the model's own field, is back at `decode`, as between steps.) -/
def State.abort (s : State) (f : Fault) : State :=
  { s with runState := .faulted, faultRecord := f.record, stageOp := .decode }

/-! ## One stage operation of one instruction (R10, R201 to R205) -/

/-- What a stage operation answers: a value (`Wait`), the `Err` of R34, or a stop of the model. -/
abbrev Result (α : Type) := Host.Outcome α Fault Refusal

/-- Use a field of the record that the variant's rule says is set (R33). -/
def needField {α β : Type} (op : StageOp) (field : Option α) (k : α → Result β) : Result β :=
  match field with
  | some x => k x
  | none => .refused (.unsetField op)

/-- What the access-memory operation hands on: the record, the memory chain and the cycles it reports (R211). -/
structure Access where
  record : InFlight
  chain : Chain
  cycles : Nat
deriving DecidableEq, Repr

/-- The four stage operations of an instruction rule (R10), each with the arguments its interface gives it (R98):
`decode(bits, registers)`, `execute()`, `access_memory(memory)`, `write_back(registers)`. The three that issue no memory
operation report `Wait(0, ())` (R211). -/
structure StageOps where
  /-- Fills the blank record of R103 (R205). It cannot fail and changes no register and no memory. -/
  decode : Regs → InFlight → InFlight
  /-- Pure computation on the record (R204). -/
  execute : InFlight → Result InFlight
  /-- The one memory operation the instruction needs, if any (R203). -/
  accessMemory : InFlight → Chain → Result Access
  /-- Commits to the register file (R202). -/
  writeBack : InFlight → Regs → Result Regs

/-- What a result makes of the state: a value has its effect, an `Err` is taken as a fault, so that the failing operation
changes nothing else (R212, R213). -/
def takeResult {α : Type} (s : State) (x : Result α) (effect : α → State) : Host.Outcome State Fault Refusal :=
  match x with
  | .next v => .next (effect v)
  | .fault f => .next (s.abort f)
  | .refused q => .refused q

/-- Perform one stage operation of instruction `i`: take the instruction from the slot of the stage before, and move it
into the stage's own slot (R201 actions 1 to 4). -/
def runStage (i : Instr) (ops : StageOps) (s : State) : Host.Outcome State Fault Refusal :=
  match s.stageOp with
  | .decode =>
    match s.slotF with
    | none => .refused (.emptySlot .decode)
    | some w => .next { s with slotD := some (ops.decode s.regs (InFlight.blank i w (condField w))) }
  | .execute =>
    match s.slotD with
    | none => .refused (.emptySlot .execute)
    | some r => takeResult s (ops.execute r) fun r' => { s with slotX := some r' }
  | .accessMemory =>
    match s.slotX with
    | none => .refused (.emptySlot .accessMemory)
    | some r => takeResult s (ops.accessMemory r s.chain) fun acc =>
      { s with slotM := some acc.record, chain := acc.chain, cycleCount := s.cycleCount + BitVec.ofNat 64 acc.cycles }
  | .writeBack =>
    match s.slotM with
    | none => .refused (.emptySlot .writeBack)
    | some r => takeResult s (ops.writeBack r s.regs) fun x => { s with slotW := some r, regs := x }

/-! ## Execute operations (R204) -/

/-- An execute operation that does nothing. -/
def executeNothing (r : InFlight) : Result InFlight := .next r

/-- `I.res <- I.a op I.b` (R148, R169, R177). -/
def executeBinary (op : Word → Word → Word) (r : InFlight) : Result InFlight :=
  needField .execute r.a fun a =>
  needField .execute r.b fun b =>
  .next { r with res := some (op a b) }

/-- `if I.b = 0 then raise ArithmeticError(stage = execute, word = I.word) else I.res <- I.a op I.b` (R144, R146). -/
def executeDivide (op : Word → Word → Word) (r : InFlight) : Result InFlight :=
  needField .execute r.a fun a =>
  needField .execute r.b fun b =>
  if b = 0#32 then .fault (.arithmeticError r.word) else .next { r with res := some (op a b) }

/-! ## Access-memory operations (R203) -/

/-- An access-memory operation that does nothing. -/
def accessNothing (r : InFlight) (ch : Chain) : Result Access := .next { record := r, chain := ch, cycles := 0 }

/-- `Wait(c, v) <- MemRead(I.addr, 32); I.res <- v; cyc <- cyc + c` (R120, R121). -/
def accessLoad (c : Config) (r : InFlight) (ch : Chain) : Result Access :=
  needField .accessMemory r.addr fun addr =>
  match ch.memRead c addr with
  | (.wait n v, ch') => .next { record := { r with res := some v }, chain := ch', cycles := n }
  | (.err _, _) => .fault (.memoryError .accessMemory r.word addr)

/-- `Wait(c, ()) <- MemWrite(addr, 32, v); cyc <- cyc + c`, for a known address. -/
def accessWrite (c : Config) (r : InFlight) (ch : Chain) (addr v : Word) : Result Access :=
  match ch.memWrite c addr v with
  | (.wait n _, ch') => .next { record := r, chain := ch', cycles := n }
  | (.err _, _) => .fault (.memoryError .accessMemory r.word addr)

/-- `Wait(c, ()) <- MemWrite(I.addr, 32, I.a); cyc <- cyc + c` (R122, R123). -/
def accessStore (c : Config) (r : InFlight) (ch : Chain) : Result Access :=
  needField .accessMemory r.addr fun addr =>
  needField .accessMemory r.a fun v =>
  accessWrite c r ch addr v

/-- `Wait(c, ()) <- MemWrite(INT_CODE_ADDR, 32, I.a); cyc <- cyc + c` (R191). -/
def accessRecordCode (c : Config) (r : InFlight) (ch : Chain) : Result Access :=
  needField .accessMemory r.a fun code =>
  accessWrite c r ch c.intCodeAddr code

/-! ## Write-back operations (R202) -/

/-- A write-back that writes nothing. -/
def writeNothing (_ : InFlight) (x : Regs) : Result Regs := .next x

/-- `x[I.rd] <- I.res` (R120, R121, R148, R169, R177). -/
def writeResult (r : InFlight) (x : Regs) : Result Regs :=
  needField .writeBack r.rd fun rd =>
  needField .writeBack r.res fun v =>
  .next (writeReg x rd v)

/-- `x[I.rd] <- f(I.a)` (R130, R176). -/
def writeOfA (f : Word → Word) (r : InFlight) (x : Regs) : Result Regs :=
  needField .writeBack r.rd fun rd =>
  needField .writeBack r.a fun a =>
  .next (writeReg x rd (f a))

/-- `x[29] <- compare(I.a, I.b)` (R151, R152). -/
def writeCompare (cmp : Word → Word → Word) (r : InFlight) (x : Regs) : Result Regs :=
  needField .writeBack r.a fun a =>
  needField .writeBack r.b fun b =>
  .next (writeReg x Reg.status (cmp a b))

/-- `x[28] <- t` (R185 b, R186). -/
def jumpTo (x : Regs) (t : Word) : Regs := writeReg x Reg.pc t

/-- `x[31] <- x[28] + 1; x[28] <- t`, in that order (R183, R185 d). -/
def linkAndJump (x : Regs) (t : Word) : Regs := jumpTo (writeReg x Reg.link (readReg x Reg.pc + 1#32)) t

/-- A jump: if its condition holds of the status register at write-back, `go` to the target; if not, no change
(R180, R185). -/
def writeJump (taken : Cond → Word → Bool) (go : Regs → Word → Regs) (r : InFlight) (x : Regs) : Result Regs :=
  needField .writeBack r.addr fun t =>
  if taken r.cond (readReg x Reg.status) = true then .next (go x t) else .next x

/-! ## The software interrupt (R246) -/

/-- Entry: `x[26] <- x[28] + 1; x[28] <- x[27]`, in that order (R191). Nothing else is saved or changed (R246). -/
def enterInterrupt (x : Regs) : Regs :=
  let y := writeReg x Reg.intLink (readReg x Reg.pc + 1#32)
  jumpTo y (readReg y Reg.intHandler)

/-- Return: `x[28] <- x[26]` (R192). -/
def returnFromInterrupt (x : Regs) : Regs := jumpTo x (readReg x Reg.intLink)

/-- `x[27] <- I.a` (R190). -/
def writeHandler (r : InFlight) (x : Regs) : Result Regs :=
  needField .writeBack r.a fun a =>
  .next (writeReg x Reg.intHandler a)

end Sys2Proof.Machine
end

