-- ==== Sys2Proof/Machine/Alu.lean ====
section
/-!
DEFINITION. Sys2Proof/Machine/Alu.lean: the arithmetic, shift and logic operations (R131, R160, R169): operands are read
as numbers, the result is computed exactly and taken modulo 2^32.
-/

namespace Sys2Proof.Machine

/-- `(A + B) mod 2^32` (R131). -/
def aluAdd (a b : Word) : Word := BitVec.ofNat 32 (a.toNat + b.toNat)

/-- `(A - B) mod 2^32` (R131). -/
def aluSub (a b : Word) : Word := BitVec.ofInt 32 ((a.toNat : Int) - (b.toNat : Int))

/-- `(A * B) mod 2^32`, the low 32 bits of the product (R131). -/
def aluMul (a b : Word) : Word := BitVec.ofNat 32 (a.toNat * b.toNat)

/-- `div_u(A, B) = floor(u(A) / u(B))` for B other than 0 (R131). -/
def aluDivU (a b : Word) : Word := BitVec.ofNat 32 (a.toNat / b.toNat)

/-- `div_s(A, B)`: the quotient of `s(A)` by `s(B)` rounded toward zero, taken modulo 2^32, for B other than 0
(R131; log entry 17). -/
def aluDivS (a b : Word) : Word := BitVec.ofInt 32 (a.toInt.tdiv b.toInt)

/-- `shl(A, n)` with the whole unsigned amount `n` (R160). -/
def aluShl (a n : Word) : Word := if n.toNat < 32 then BitVec.ofNat 32 (a.toNat * 2 ^ n.toNat) else 0#32

/-- `shr_l(A, n)` (R160). -/
def aluShrL (a n : Word) : Word := if n.toNat < 32 then BitVec.ofNat 32 (a.toNat / 2 ^ n.toNat) else 0#32

/-- `shr_a(A, n)`: `floor(s(A) / 2^n)`, and copies of bit 31 from `n = 32` on (R160; log entry 17). -/
def aluShrA (a n : Word) : Word :=
  if n.toNat < 32 then BitVec.ofInt 32 (a.toInt / (2 ^ n.toNat : Nat))
  else if a.msb = true then 0xFFFFFFFF#32 else 0#32

/-- Bitwise and (R170, R171). -/
def aluAnd (a b : Word) : Word := a &&& b

/-- Bitwise or (R172, R173). -/
def aluOr (a b : Word) : Word := a ||| b

/-- Bitwise exclusive or (R174, R175). -/
def aluXor (a b : Word) : Word := a ^^^ b

/-- Bitwise complement (R176). -/
def aluNot (a : Word) : Word := ~~~a

end Sys2Proof.Machine
end

