-- ==== Sys2Proof/Machine/Operands.lean ====
section
/-!
DEFINITION. Sys2Proof/Machine/Operands.lean: the extensions of immediates (R97) and every operand form, as the decode
operation that captures it in the record (R98, R99).
-/

namespace Sys2Proof.Machine

/-! ## Extensions (R8, R97) -/

/-- `sext_N(v)`: bit N-1 copied into bits 31..N (R8). -/
def sext {n : Nat} (v : BitVec n) : Word := v.signExtend 32

/-- `zext_N(v)`: bits 31..N zero (R8). -/
def zext {n : Nat} (v : BitVec n) : Word := v.setWidth 32

/-- `x[28] + 1 + sext_N(imm)` modulo 2^32, with `x[28]` as decode finds it (R99). -/
def pcRelative {n : Nat} (x : Regs) (imm : BitVec n) : Word := readReg x Reg.pc + 1#32 + sext imm

/-! ## Decode operations, one per operand form -/

/-- Nothing beyond building the record (R192, R193). -/
def decodeNothing (_ : Regs) (r : InFlight) : InFlight := r

/-- `I.rd <- rd; I.a <- x[rs1]; I.b <- x[rs2]`: format A3R (R148, R169). -/
def decodeRegReg (rd rs1 rs2 : Reg) (x : Regs) (r : InFlight) : InFlight :=
  { r with rd := some rd, a := some (readReg x rs1), b := some (readReg x rs2) }

/-- `I.rd <- rd; I.a <- x[rs1]; I.b <- b`, with `b` the extended immediate: format A3I (R148, R169). A shift is this
form, or the one above, with `rs1 = rd` (R177). -/
def decodeRegImm (rd rs1 : Reg) (b : Word) (x : Regs) (r : InFlight) : InFlight :=
  { r with rd := some rd, a := some (readReg x rs1), b := some b }

/-- `I.rd <- rd; I.a <- x[rs]`: MOV and NOT (R130, R176). -/
def decodeMove (rd rs : Reg) (x : Regs) (r : InFlight) : InFlight :=
  { r with rd := some rd, a := some (readReg x rs) }

/-- `I.a <- x[rs1]; I.b <- x[rs2]`: the compares (R151, R152). -/
def decodeCompare (rs1 rs2 : Reg) (x : Regs) (r : InFlight) : InFlight :=
  { r with a := some (readReg x rs1), b := some (readReg x rs2) }

/-- `I.rd <- rd; I.addr <- x[rs]`: LDR (R120). -/
def decodeLoad (rd rs : Reg) (x : Regs) (r : InFlight) : InFlight :=
  { r with rd := some rd, addr := some (readReg x rs) }

/-- `I.rd <- rd; I.addr <- x[28] + 1 + sext_17(imm17)`: LDRI (R121). -/
def decodeLoadRel (rd : Reg) (imm17 : BitVec 17) (x : Regs) (r : InFlight) : InFlight :=
  { r with rd := some rd, addr := some (pcRelative x imm17) }

/-- `I.a <- x[rv]; I.addr <- x[rs]`: STR (R122). -/
def decodeStore (rv rs : Reg) (x : Regs) (r : InFlight) : InFlight :=
  { r with a := some (readReg x rv), addr := some (readReg x rs) }

/-- `I.a <- x[rv]; I.addr <- x[28] + 1 + sext_17(imm17)`: STRI (R123). -/
def decodeStoreRel (rv : Reg) (imm17 : BitVec 17) (x : Regs) (r : InFlight) : InFlight :=
  { r with a := some (readReg x rv), addr := some (pcRelative x imm17) }

/-- `I.addr <- x[rs]`: JMP and JMPS (R181, R183). -/
def decodeTarget (rs : Reg) (x : Regs) (r : InFlight) : InFlight :=
  { r with addr := some (readReg x rs) }

/-- `I.addr <- x[28] + 1 + sext_22(imm22)`: JMPI and JMPSI (R182, R184). -/
def decodeTargetRel (imm22 : BitVec 22) (x : Regs) (r : InFlight) : InFlight :=
  { r with addr := some (pcRelative x imm22) }

/-- `I.a <- x[rs]`: SIH (R190). -/
def decodeHandler (rs : Reg) (x : Regs) (r : InFlight) : InFlight :=
  { r with a := some (readReg x rs) }

/-- `I.a <- zext_22(imm22)`: INT (R191). -/
def decodeCode (imm22 : BitVec 22) (_ : Regs) (r : InFlight) : InFlight :=
  { r with a := some (zext imm22) }

end Sys2Proof.Machine
end

