-- ==== Sys2Proof/Machine/Flags.lean ====
section
/-!
DEFINITION. Sys2Proof/Machine/Flags.lean: the only condition state is register 29 (R26): what the compares write to it
(R150 to R152) and when a jump fires on it (R109, R180). No other instruction computes a flag.
-/

namespace Sys2Proof.Machine

/-- CMPU: 1 if `u(a) = u(b)`, 2 if `u(a) > u(b)`, 3 if `u(a) < u(b)` (R151). -/
def compareUnsigned (a b : Word) : Word :=
  if a.toNat = b.toNat then 1#32 else if b.toNat < a.toNat then 2#32 else 3#32

/-- CMPS: 1 if `s(a) = s(b)`, 2 if `s(a) > s(b)`, 3 if `s(a) < s(b)` (R152); two's complement (R8, log entry 17). -/
def compareSigned (a b : Word) : Word :=
  if a.toInt = b.toInt then 1#32 else if b.toInt < a.toInt then 2#32 else 3#32

/-- `taken = (I.cond = 0) or (x[29] = zext_5(I.cond))` (R180). -/
def condTaken (cond : Cond) (status : Word) : Bool := decide (cond = 0#5) || decide (status = zext cond)

end Sys2Proof.Machine
end

