-- ==== Sys2Proof/Machine/Arith.lean ====
section
/-!
DEFINITION. Sys2Proof/Machine/Arith.lean: move, integer arithmetic and compare (41_move_arith_compare.md R130 to R152).
Each meaning gives the four stage operations of its rule; `exec` performs the one `State.stageOp` names, on the record in
that stage's slot (R10, R201).
-/

namespace Sys2Proof.Machine

/-- ADDU: add unsigned, RegisterDirect (R132). Shape: R148. -/
def execAddu (rd rs1 rs2 : Reg) (s : State) : Host.Outcome State Fault Refusal :=
  runStage (.addu rd rs1 rs2)
    { decode := decodeRegReg rd rs1 rs2, execute := executeBinary aluAdd,
      accessMemory := accessNothing, writeBack := writeResult } s

/-- ADDUI: add unsigned, Immediate (R133). -/
def execAddui (rd rs1 : Reg) (imm9 : BitVec 9) (s : State) : Host.Outcome State Fault Refusal :=
  runStage (.addui rd rs1 imm9)
    { decode := decodeRegImm rd rs1 (zext imm9), execute := executeBinary aluAdd,
      accessMemory := accessNothing, writeBack := writeResult } s

/-- ADDS: add signed, RegisterDirect (R134). -/
def execAdds (rd rs1 rs2 : Reg) (s : State) : Host.Outcome State Fault Refusal :=
  runStage (.adds rd rs1 rs2)
    { decode := decodeRegReg rd rs1 rs2, execute := executeBinary aluAdd,
      accessMemory := accessNothing, writeBack := writeResult } s

/-- ADDSI: add signed, Immediate (R135). -/
def execAddsi (rd rs1 : Reg) (imm9 : BitVec 9) (s : State) : Host.Outcome State Fault Refusal :=
  runStage (.addsi rd rs1 imm9)
    { decode := decodeRegImm rd rs1 (sext imm9), execute := executeBinary aluAdd,
      accessMemory := accessNothing, writeBack := writeResult } s

/-- SUBU: subtract unsigned, RegisterDirect (R136). -/
def execSubu (rd rs1 rs2 : Reg) (s : State) : Host.Outcome State Fault Refusal :=
  runStage (.subu rd rs1 rs2)
    { decode := decodeRegReg rd rs1 rs2, execute := executeBinary aluSub,
      accessMemory := accessNothing, writeBack := writeResult } s

/-- SUBUI: subtract unsigned, Immediate (R137). -/
def execSubui (rd rs1 : Reg) (imm9 : BitVec 9) (s : State) : Host.Outcome State Fault Refusal :=
  runStage (.subui rd rs1 imm9)
    { decode := decodeRegImm rd rs1 (zext imm9), execute := executeBinary aluSub,
      accessMemory := accessNothing, writeBack := writeResult } s

/-- SUBS: subtract signed, RegisterDirect (R138). -/
def execSubs (rd rs1 rs2 : Reg) (s : State) : Host.Outcome State Fault Refusal :=
  runStage (.subs rd rs1 rs2)
    { decode := decodeRegReg rd rs1 rs2, execute := executeBinary aluSub,
      accessMemory := accessNothing, writeBack := writeResult } s

/-- SUBSI: subtract signed, Immediate (R139). -/
def execSubsi (rd rs1 : Reg) (imm9 : BitVec 9) (s : State) : Host.Outcome State Fault Refusal :=
  runStage (.subsi rd rs1 imm9)
    { decode := decodeRegImm rd rs1 (sext imm9), execute := executeBinary aluSub,
      accessMemory := accessNothing, writeBack := writeResult } s

/-- MULU: multiply unsigned, RegisterDirect (R140). -/
def execMulu (rd rs1 rs2 : Reg) (s : State) : Host.Outcome State Fault Refusal :=
  runStage (.mulu rd rs1 rs2)
    { decode := decodeRegReg rd rs1 rs2, execute := executeBinary aluMul,
      accessMemory := accessNothing, writeBack := writeResult } s

/-- MULUI: multiply unsigned, Immediate (R141). -/
def execMului (rd rs1 : Reg) (imm9 : BitVec 9) (s : State) : Host.Outcome State Fault Refusal :=
  runStage (.mului rd rs1 imm9)
    { decode := decodeRegImm rd rs1 (zext imm9), execute := executeBinary aluMul,
      accessMemory := accessNothing, writeBack := writeResult } s

/-- MULS: multiply signed, RegisterDirect (R142). -/
def execMuls (rd rs1 rs2 : Reg) (s : State) : Host.Outcome State Fault Refusal :=
  runStage (.muls rd rs1 rs2)
    { decode := decodeRegReg rd rs1 rs2, execute := executeBinary aluMul,
      accessMemory := accessNothing, writeBack := writeResult } s

/-- MULSI: multiply signed, Immediate (R143). -/
def execMulsi (rd rs1 : Reg) (imm9 : BitVec 9) (s : State) : Host.Outcome State Fault Refusal :=
  runStage (.mulsi rd rs1 imm9)
    { decode := decodeRegImm rd rs1 (sext imm9), execute := executeBinary aluMul,
      accessMemory := accessNothing, writeBack := writeResult } s

/-- DIVU: divide unsigned, RegisterDirect (R144). -/
def execDivu (rd rs1 rs2 : Reg) (s : State) : Host.Outcome State Fault Refusal :=
  runStage (.divu rd rs1 rs2)
    { decode := decodeRegReg rd rs1 rs2, execute := executeDivide aluDivU,
      accessMemory := accessNothing, writeBack := writeResult } s

/-- DIVUI: divide unsigned, Immediate (R145). -/
def execDivui (rd rs1 : Reg) (imm9 : BitVec 9) (s : State) : Host.Outcome State Fault Refusal :=
  runStage (.divui rd rs1 imm9)
    { decode := decodeRegImm rd rs1 (zext imm9), execute := executeDivide aluDivU,
      accessMemory := accessNothing, writeBack := writeResult } s

/-- DIVS: divide signed, RegisterDirect (R146). -/
def execDivs (rd rs1 rs2 : Reg) (s : State) : Host.Outcome State Fault Refusal :=
  runStage (.divs rd rs1 rs2)
    { decode := decodeRegReg rd rs1 rs2, execute := executeDivide aluDivS,
      accessMemory := accessNothing, writeBack := writeResult } s

/-- DIVSI: divide signed, Immediate (R147). -/
def execDivsi (rd rs1 : Reg) (imm9 : BitVec 9) (s : State) : Host.Outcome State Fault Refusal :=
  runStage (.divsi rd rs1 imm9)
    { decode := decodeRegImm rd rs1 (sext imm9), execute := executeDivide aluDivS,
      accessMemory := accessNothing, writeBack := writeResult } s

/-- CMPU: compare unsigned (R151). -/
def execCmpu (rs1 rs2 : Reg) (s : State) : Host.Outcome State Fault Refusal :=
  runStage (.cmpu rs1 rs2)
    { decode := decodeCompare rs1 rs2, execute := executeNothing,
      accessMemory := accessNothing, writeBack := writeCompare compareUnsigned } s

/-- CMPS: compare signed (R152). -/
def execCmps (rs1 rs2 : Reg) (s : State) : Host.Outcome State Fault Refusal :=
  runStage (.cmps rs1 rs2)
    { decode := decodeCompare rs1 rs2, execute := executeNothing,
      accessMemory := accessNothing, writeBack := writeCompare compareSigned } s

/-- MOV: register to register (R130). -/
def execMov (rd rs : Reg) (s : State) : Host.Outcome State Fault Refusal :=
  runStage (.mov rd rs)
    { decode := decodeMove rd rs, execute := executeNothing,
      accessMemory := accessNothing, writeBack := writeOfA id } s

end Sys2Proof.Machine
end

