-- ==== Sys2Proof/Machine/Interrupt.lean ====
section
/-!
DEFINITION. Sys2Proof/Machine/Interrupt.lean: interrupt control and the no-op (44_interrupt_nop.md R190 to R193).
Each meaning gives the four stage operations of its rule; `exec` performs the one `State.stageOp` names, on the record in
that stage's slot (R10, R201).
-/

namespace Sys2Proof.Machine

/-- NOP: no operation (R193). -/
def execNop (s : State) : Host.Outcome State Fault Refusal :=
  runStage .nop
    { decode := decodeNothing, execute := executeNothing,
      accessMemory := accessNothing, writeBack := writeNothing } s

/-- SIH: set interrupt handler (R190). -/
def execSih (rs : Reg) (s : State) : Host.Outcome State Fault Refusal :=
  runStage (.sih rs)
    { decode := decodeHandler rs, execute := executeNothing,
      accessMemory := accessNothing, writeBack := writeHandler } s

/-- INT: software interrupt (R191). Entry is `enterInterrupt` (R246). -/
def execInt (imm22 : BitVec 22) (s : State) : Host.Outcome State Fault Refusal :=
  runStage (.int imm22)
    { decode := decodeCode imm22, execute := executeNothing,
      accessMemory := accessRecordCode s.config, writeBack := fun _ x => .next (enterInterrupt x) } s

/-- RFI: return from interrupt (R192). The return of R246. -/
def execRfi (s : State) : Host.Outcome State Fault Refusal :=
  runStage .rfi
    { decode := decodeNothing, execute := executeNothing,
      accessMemory := accessNothing, writeBack := fun _ x => .next (returnFromInterrupt x) } s

end Sys2Proof.Machine
end

