-- ==== Sys2Proof/Machine/Jump.lean ====
section
/-!
DEFINITION. Sys2Proof/Machine/Jump.lean: jumps and subroutine jumps (43_jump.md R180 to R186).
Each meaning gives the four stage operations of its rule; `exec` performs the one `State.stageOp` names, on the record in
that stage's slot (R10, R201).
-/

namespace Sys2Proof.Machine

/-- JMP: jump, RegisterDirect (R181). -/
def execJmp (rs : Reg) (cond : Cond) (s : State) : Host.Outcome State Fault Refusal :=
  runStage (.jmp rs cond)
    { decode := decodeTarget rs, execute := executeNothing,
      accessMemory := accessNothing, writeBack := writeJump condTaken jumpTo } s

/-- JMPI: jump, Immediate (R182). -/
def execJmpi (imm22 : BitVec 22) (cond : Cond) (s : State) : Host.Outcome State Fault Refusal :=
  runStage (.jmpi imm22 cond)
    { decode := decodeTargetRel imm22, execute := executeNothing,
      accessMemory := accessNothing, writeBack := writeJump condTaken jumpTo } s

/-- JMPS: jump to subroutine, RegisterDirect (R183). -/
def execJmps (rs : Reg) (cond : Cond) (s : State) : Host.Outcome State Fault Refusal :=
  runStage (.jmps rs cond)
    { decode := decodeTarget rs, execute := executeNothing,
      accessMemory := accessNothing, writeBack := writeJump condTaken linkAndJump } s

/-- JMPSI: jump to subroutine, Immediate (R184). -/
def execJmpsi (imm22 : BitVec 22) (cond : Cond) (s : State) : Host.Outcome State Fault Refusal :=
  runStage (.jmpsi imm22 cond)
    { decode := decodeTargetRel imm22, execute := executeNothing,
      accessMemory := accessNothing, writeBack := writeJump condTaken linkAndJump } s

end Sys2Proof.Machine
end

