-- ==== Sys2Proof/Machine/LoadStore.lean ====
section
/-!
DEFINITION. Sys2Proof/Machine/LoadStore.lean: loads and stores (40_load_store.md R120 to R124).
Each meaning gives the four stage operations of its rule; `exec` performs the one `State.stageOp` names, on the record in
that stage's slot (R10, R201).
-/

namespace Sys2Proof.Machine

/-- LDR: load, RegisterDirect address (R120). -/
def execLdr (rd rs : Reg) (s : State) : Host.Outcome State Fault Refusal :=
  runStage (.ldr rd rs)
    { decode := decodeLoad rd rs, execute := executeNothing,
      accessMemory := accessLoad s.config, writeBack := writeResult } s

/-- LDRI: load, Immediate (PC-relative) address (R121). -/
def execLdri (rd : Reg) (imm17 : BitVec 17) (s : State) : Host.Outcome State Fault Refusal :=
  runStage (.ldri rd imm17)
    { decode := decodeLoadRel rd imm17, execute := executeNothing,
      accessMemory := accessLoad s.config, writeBack := writeResult } s

/-- STR: store, RegisterDirect address (R122). -/
def execStr (rv rs : Reg) (s : State) : Host.Outcome State Fault Refusal :=
  runStage (.str rv rs)
    { decode := decodeStore rv rs, execute := executeNothing,
      accessMemory := accessStore s.config, writeBack := writeNothing } s

/-- STRI: store, Immediate (PC-relative) address (R123). -/
def execStri (rv : Reg) (imm17 : BitVec 17) (s : State) : Host.Outcome State Fault Refusal :=
  runStage (.stri rv imm17)
    { decode := decodeStoreRel rv imm17, execute := executeNothing,
      accessMemory := accessStore s.config, writeBack := writeNothing } s

end Sys2Proof.Machine
end

