-- ==== Sys2Proof/Machine/ShiftLogic.lean ====
section
/-!
DEFINITION. Sys2Proof/Machine/ShiftLogic.lean: shifts, three-operand logic and bitwise not (42_shift_logic_not.md R160 to R177).
Each meaning gives the four stage operations of its rule; `exec` performs the one `State.stageOp` names, on the record in
that stage's slot (R10, R201).
-/

namespace Sys2Proof.Machine

/-- ASL: arithmetic shift left, RegisterDirect (R161). -/
def execAsl (rd rs : Reg) (s : State) : Host.Outcome State Fault Refusal :=
  runStage (.asl rd rs)
    { decode := decodeRegReg rd rd rs, execute := executeBinary aluShl,
      accessMemory := accessNothing, writeBack := writeResult } s

/-- ASLI: arithmetic shift left, Immediate (R162). -/
def execAsli (rd : Reg) (imm14 : BitVec 14) (s : State) : Host.Outcome State Fault Refusal :=
  runStage (.asli rd imm14)
    { decode := decodeRegImm rd rd (zext imm14), execute := executeBinary aluShl,
      accessMemory := accessNothing, writeBack := writeResult } s

/-- ASR: arithmetic shift right, RegisterDirect (R163). -/
def execAsr (rd rs : Reg) (s : State) : Host.Outcome State Fault Refusal :=
  runStage (.asr rd rs)
    { decode := decodeRegReg rd rd rs, execute := executeBinary aluShrA,
      accessMemory := accessNothing, writeBack := writeResult } s

/-- ASRI: arithmetic shift right, Immediate (R164). -/
def execAsri (rd : Reg) (imm14 : BitVec 14) (s : State) : Host.Outcome State Fault Refusal :=
  runStage (.asri rd imm14)
    { decode := decodeRegImm rd rd (zext imm14), execute := executeBinary aluShrA,
      accessMemory := accessNothing, writeBack := writeResult } s

/-- LSL: logical shift left, RegisterDirect (R165). -/
def execLsl (rd rs : Reg) (s : State) : Host.Outcome State Fault Refusal :=
  runStage (.lsl rd rs)
    { decode := decodeRegReg rd rd rs, execute := executeBinary aluShl,
      accessMemory := accessNothing, writeBack := writeResult } s

/-- LSLI: logical shift left, Immediate (R166). -/
def execLsli (rd : Reg) (imm14 : BitVec 14) (s : State) : Host.Outcome State Fault Refusal :=
  runStage (.lsli rd imm14)
    { decode := decodeRegImm rd rd (zext imm14), execute := executeBinary aluShl,
      accessMemory := accessNothing, writeBack := writeResult } s

/-- LSR: logical shift right, RegisterDirect (R167). -/
def execLsr (rd rs : Reg) (s : State) : Host.Outcome State Fault Refusal :=
  runStage (.lsr rd rs)
    { decode := decodeRegReg rd rd rs, execute := executeBinary aluShrL,
      accessMemory := accessNothing, writeBack := writeResult } s

/-- LSRI: logical shift right, Immediate (R168). -/
def execLsri (rd : Reg) (imm14 : BitVec 14) (s : State) : Host.Outcome State Fault Refusal :=
  runStage (.lsri rd imm14)
    { decode := decodeRegImm rd rd (zext imm14), execute := executeBinary aluShrL,
      accessMemory := accessNothing, writeBack := writeResult } s

/-- AND: RegisterDirect (R170). -/
def execAnd (rd rs1 rs2 : Reg) (s : State) : Host.Outcome State Fault Refusal :=
  runStage (.and rd rs1 rs2)
    { decode := decodeRegReg rd rs1 rs2, execute := executeBinary aluAnd,
      accessMemory := accessNothing, writeBack := writeResult } s

/-- ANDI: Immediate (R171). -/
def execAndi (rd rs1 : Reg) (imm9 : BitVec 9) (s : State) : Host.Outcome State Fault Refusal :=
  runStage (.andi rd rs1 imm9)
    { decode := decodeRegImm rd rs1 (zext imm9), execute := executeBinary aluAnd,
      accessMemory := accessNothing, writeBack := writeResult } s

/-- OR: RegisterDirect (R172). -/
def execOr (rd rs1 rs2 : Reg) (s : State) : Host.Outcome State Fault Refusal :=
  runStage (.or rd rs1 rs2)
    { decode := decodeRegReg rd rs1 rs2, execute := executeBinary aluOr,
      accessMemory := accessNothing, writeBack := writeResult } s

/-- ORI: Immediate (R173). -/
def execOri (rd rs1 : Reg) (imm9 : BitVec 9) (s : State) : Host.Outcome State Fault Refusal :=
  runStage (.ori rd rs1 imm9)
    { decode := decodeRegImm rd rs1 (zext imm9), execute := executeBinary aluOr,
      accessMemory := accessNothing, writeBack := writeResult } s

/-- XOR: RegisterDirect (R174). -/
def execXor (rd rs1 rs2 : Reg) (s : State) : Host.Outcome State Fault Refusal :=
  runStage (.xor rd rs1 rs2)
    { decode := decodeRegReg rd rs1 rs2, execute := executeBinary aluXor,
      accessMemory := accessNothing, writeBack := writeResult } s

/-- XORI: Immediate (R175). -/
def execXori (rd rs1 : Reg) (imm9 : BitVec 9) (s : State) : Host.Outcome State Fault Refusal :=
  runStage (.xori rd rs1 imm9)
    { decode := decodeRegImm rd rs1 (zext imm9), execute := executeBinary aluXor,
      accessMemory := accessNothing, writeBack := writeResult } s

/-- NOT: bitwise complement (R176). -/
def execNot (rd rs : Reg) (s : State) : Host.Outcome State Fault Refusal :=
  runStage (.not rd rs)
    { decode := decodeMove rd rs, execute := executeNothing,
      accessMemory := accessNothing, writeBack := writeOfA aluNot } s

end Sys2Proof.Machine
end

