-- ==== Sys2Proof/Machine/Dispatch.lean ====
section
/-!
DEFINITION. Sys2Proof/Machine/Dispatch.lean: exec, one arm per constructor of Instr.
-/

namespace Sys2Proof.Machine

open Sys2Proof

def exec (i : Instr) (s : State) : Host.Outcome State Fault Refusal :=
  match i with
  | .addu rd rs1 rs2 => Sys2Proof.Machine.execAddu rd rs1 rs2 s
  | .addui rd rs1 imm9 => Sys2Proof.Machine.execAddui rd rs1 imm9 s
  | .adds rd rs1 rs2 => Sys2Proof.Machine.execAdds rd rs1 rs2 s
  | .addsi rd rs1 imm9 => Sys2Proof.Machine.execAddsi rd rs1 imm9 s
  | .subu rd rs1 rs2 => Sys2Proof.Machine.execSubu rd rs1 rs2 s
  | .subui rd rs1 imm9 => Sys2Proof.Machine.execSubui rd rs1 imm9 s
  | .subs rd rs1 rs2 => Sys2Proof.Machine.execSubs rd rs1 rs2 s
  | .subsi rd rs1 imm9 => Sys2Proof.Machine.execSubsi rd rs1 imm9 s
  | .mulu rd rs1 rs2 => Sys2Proof.Machine.execMulu rd rs1 rs2 s
  | .mului rd rs1 imm9 => Sys2Proof.Machine.execMului rd rs1 imm9 s
  | .muls rd rs1 rs2 => Sys2Proof.Machine.execMuls rd rs1 rs2 s
  | .mulsi rd rs1 imm9 => Sys2Proof.Machine.execMulsi rd rs1 imm9 s
  | .divu rd rs1 rs2 => Sys2Proof.Machine.execDivu rd rs1 rs2 s
  | .divui rd rs1 imm9 => Sys2Proof.Machine.execDivui rd rs1 imm9 s
  | .divs rd rs1 rs2 => Sys2Proof.Machine.execDivs rd rs1 rs2 s
  | .divsi rd rs1 imm9 => Sys2Proof.Machine.execDivsi rd rs1 imm9 s
  | .cmpu rs1 rs2 => Sys2Proof.Machine.execCmpu rs1 rs2 s
  | .cmps rs1 rs2 => Sys2Proof.Machine.execCmps rs1 rs2 s
  | .asl rd rs => Sys2Proof.Machine.execAsl rd rs s
  | .asli rd imm14 => Sys2Proof.Machine.execAsli rd imm14 s
  | .asr rd rs => Sys2Proof.Machine.execAsr rd rs s
  | .asri rd imm14 => Sys2Proof.Machine.execAsri rd imm14 s
  | .lsl rd rs => Sys2Proof.Machine.execLsl rd rs s
  | .lsli rd imm14 => Sys2Proof.Machine.execLsli rd imm14 s
  | .lsr rd rs => Sys2Proof.Machine.execLsr rd rs s
  | .lsri rd imm14 => Sys2Proof.Machine.execLsri rd imm14 s
  | .and rd rs1 rs2 => Sys2Proof.Machine.execAnd rd rs1 rs2 s
  | .andi rd rs1 imm9 => Sys2Proof.Machine.execAndi rd rs1 imm9 s
  | .or rd rs1 rs2 => Sys2Proof.Machine.execOr rd rs1 rs2 s
  | .ori rd rs1 imm9 => Sys2Proof.Machine.execOri rd rs1 imm9 s
  | .xor rd rs1 rs2 => Sys2Proof.Machine.execXor rd rs1 rs2 s
  | .xori rd rs1 imm9 => Sys2Proof.Machine.execXori rd rs1 imm9 s
  | .not rd rs => Sys2Proof.Machine.execNot rd rs s
  | .mov rd rs => Sys2Proof.Machine.execMov rd rs s
  | .nop => Sys2Proof.Machine.execNop s
  | .ldr rd rs => Sys2Proof.Machine.execLdr rd rs s
  | .ldri rd imm17 => Sys2Proof.Machine.execLdri rd imm17 s
  | .str rv rs => Sys2Proof.Machine.execStr rv rs s
  | .stri rv imm17 => Sys2Proof.Machine.execStri rv imm17 s
  | .jmp rs cond => Sys2Proof.Machine.execJmp rs cond s
  | .jmpi imm22 cond => Sys2Proof.Machine.execJmpi imm22 cond s
  | .jmps rs cond => Sys2Proof.Machine.execJmps rs cond s
  | .jmpsi imm22 cond => Sys2Proof.Machine.execJmpsi imm22 cond s
  | .sih rs => Sys2Proof.Machine.execSih rs s
  | .int imm22 => Sys2Proof.Machine.execInt imm22 s
  | .rfi => Sys2Proof.Machine.execRfi s

end Sys2Proof.Machine
end

