-- ==== Sys2Proof/Machine/Pipeline.lean ====
section
/-!
DEFINITION. Sys2Proof/Machine/Pipeline.lean: the seven actions of one `step()` call, in the order of 49_pipeline_control.md
R201, and what an `Err` does to the call (R212, R213).
-/

namespace Sys2Proof.Machine

/-- Action 1, write-back (R201, R202). -/
def actWriteBack (s : State) : Host.Outcome State Fault Refusal :=
  match s.slotM with
  | none => .next { s with slotW := none, stageOp := .writeBack }
  | some r => exec r.op { s with stageOp := .writeBack }

/-- Action 2, access-memory (R201, R203). -/
def actAccessMemory (s : State) : Host.Outcome State Fault Refusal :=
  match s.slotX with
  | none => .next { s with slotM := none, stageOp := .accessMemory }
  | some r => exec r.op { s with stageOp := .accessMemory }

/-- Action 3, execute (R201, R204). -/
def actExecute (s : State) : Host.Outcome State Fault Refusal :=
  match s.slotD with
  | none => .next { s with slotX := none, stageOp := .execute }
  | some r => exec r.op { s with stageOp := .execute }

/-- Action 4, decode (R103, R201, R205). -/
def actDecode (s : State) : Host.Outcome State Fault Refusal :=
  match s.slotF with
  | none => .next { s with slotD := none, stageOp := .decode }
  | some w =>
    match decodeWord w with
    | .ok i => exec i { s with stageOp := .decode }
    | .error _ => .next (s.abort (.decodeError w))

/-- Action 5, fetch: the word 0 is the halt sentinel and empties the fetch slot (R201, R206). -/
def actFetch (s : State) : Host.Outcome State Fault Refusal :=
  match s.chain.memRead s.config (s.reg Reg.pc) with
  | (.wait n w, ch) =>
    .next { s with
      chain := ch, cycleCount := s.cycleCount + BitVec.ofNat 64 n, slotF := if w = 0#32 then none else some w }
  | (.err _, _) => .next (s.abort (.memoryError .fetch 0#32 (s.reg Reg.pc)))

/-- Action 6: `x[28] <- x[28] + 1` modulo 2^32 (R25, R207). -/
def actIncrement (s : State) : State := s.setReg Reg.pc (s.reg Reg.pc + 1#32)

/-- "Whether *any* of the five slots is non-empty" (R208). -/
def State.anySlot (s : State) : Bool :=
  s.slotF.isSome || s.slotD.isSome || s.slotX.isSome || s.slotM.isSome || s.slotW.isSome

/-- Action 7 and the completion of the step: the return value, `run_state` and `step_count` (R208, R211, R215). -/
def actReturn (s : State) : State :=
  { s with
    running := s.anySlot, runState := if s.anySlot = true then .running else .halted, stepCount := s.stepCount + 1#64 }

/-- Perform an action and then what follows. An action that took a fault aborts the step: the completed actions keep
their effects, the failing one and the later ones change nothing, and the machine is FAULTED (R212, R213, R215). -/
def perform (act next : State → Host.Outcome State Fault Refusal) (s : State) : Host.Outcome State Fault Refusal :=
  match act s with
  | .next t => if t.runState = .faulted then .next t else next t
  | .fault f => .fault f
  | .refused q => .refused q

/-- What follows a fetch (R201 actions 6 and 7). -/
def finishStep (s : State) : Host.Outcome State Fault Refusal := .next (actReturn (actIncrement s))

/-- The seven actions in order, "latest stage first" (R201). -/
def stepActions : State → Host.Outcome State Fault Refusal :=
  perform actWriteBack (perform actAccessMemory (perform actExecute (perform actDecode (perform actFetch finishStep))))

/-- A requested step: taken in IDLE and RUNNING; in HALTED and FAULTED nothing changes until reset (R215, U16). -/
def stepCall (s : State) : Host.Outcome State Fault Refusal :=
  match s.runState with
  | .idle => stepActions s
  | .running => stepActions s
  | .halted => .next s
  | .faulted => .next s

/-- The state in which a fetch has just delivered the word `w` (R206): `slot.F` holds it and the machine is RUNNING. -/
def State.fetched (s : State) (w : Word) : State := { s with slotF := some w, runState := .running, stageOp := .decode }

end Sys2Proof.Machine
end

