-- ==== Sys2Proof/Machine/Step.lean ====
section
/-!
DEFINITION. Sys2Proof/Machine/Step.lean: one step of the machine is one `step()` call of the control unit
(49_pipeline_control.md R200).
-/

namespace Sys2Proof.Machine

/-- One `step()` call, one simulated machine cycle (R200, R201). -/
def step (s : State) : Host.Outcome State Fault Refusal := stepCall s

/-- The host's hook: the instruction word `w` stands in `slot.F`, as a fetch leaves it, so that the very next step
decodes it, and the three steps after that execute it, do its memory access and write it back (log entry 3). -/
def State.withFetchWord (s : State) (nbits w : Nat) : State := s.fetched (BitVec.ofNat 32 (w % 2 ^ nbits))

end Sys2Proof.Machine
end

