-- ==== Sys2Proof/WellFormed.lean ====
section
/-!
DEFINITION. Sys2Proof/WellFormed.lean: what an assembler may write, which instances exist, which images load.

Every bound on an operand is carried by its type (a register index has 5 bits, R22; an immediate has the width of its
field, R97), so an instruction needs one check only.
-/

namespace Sys2Proof

/-- An instruction whose canonical word (ignored bits 0, R105) is an instruction: all but `ADDU x0, x0, x0`, whose
canonical word is the halt sentinel and "cannot be executed" (R106). -/
def Instr.wellFormed (i : Instr) : Bool := decide (i ≠ .addu 0#5 0#5 0#5)

/-- `n` is a power of two, at least 1 (R6, R55). -/
def isPowerOfTwo (n : Nat) : Bool := decide (n ≠ 0) && decide (2 ^ n.log2 = n)

/-- `LINES[l]` is legal (R6, R55, U18). -/
def CacheParams.wellFormed (p : CacheParams) : Bool := isPowerOfTwo p.lineCount

/-- The legal instances: at most three cache levels, each with a legal line count (R6, R65, U18). -/
def Config.wellFormed (c : Config) : Bool :=
  decide (c.nLevels ≤ 3) && c.levels.all CacheParams.wellFormed

/-- A well-formed memory image is "a byte sequence whose length is a multiple of 4" (R243, R76). -/
def imageWellFormed (image : List Byte) : Bool := image.length % 4 == 0

end Sys2Proof
end

