-- ==== Sys2Proof/Machine/Ports.lean ====
section
/-!
DEFINITION. Sys2Proof/Machine/Ports.lean: what the host may do (49_pipeline_control.md R222), the image loader
(20_memory.md R76), `inspect()` (R77), and the ports and the clock edge of R220.
-/

namespace Sys2Proof.Machine

/-! ## Host interactions (R222) -/

/-- An action that R222 allows in IDLE only; elsewhere it is refused (U17). -/
def inIdle {α : Type} (s : State) (k : Result α) : Result α :=
  match s.runState with
  | .idle => k
  | .running => .refused .hostActionOutsideIdle
  | .halted => .refused .hostActionOutsideIdle
  | .faulted => .refused .hostActionOutsideIdle

/-- Reset, from any state (R270): the reset values of R41; the instance stays what it is. -/
def State.rst (s : State) : State := State.resetWith s.config

/-- `dram.map[a] <- v`, directly, not through the caches (R76, R220, R222). -/
def State.pokeDram (s : State) (a v : Word) : State :=
  { s with chain := { s.chain with dram := (Dram.set 0 s.chain.dram a v).2 } }

/-- Write one DRAM word in IDLE: the load port (R220, R222), whatever the cache lines hold (log entry 18). -/
def hostLoadWord (a v : Word) (s : State) : Host.Outcome State Fault Refusal := inIdle s (.next (s.pokeDram a v))

/-- Preset a register (R222). -/
def hostPresetReg (r : Reg) (v : Word) (s : State) : Host.Outcome State Fault Refusal := inIdle s (.next (s.setReg r v))

/-- Place the words of an image, the first at DRAM address `n` (R76). -/
def loadWords : List Byte → Nat → State → State
  | b0 :: b1 :: b2 :: b3 :: rest, n, s => loadWords rest (n + 1) (s.pokeDram (BitVec.ofNat 32 n) (wordOfBytes b0 b1 b2 b3))
  | _, _, s => s

/-- What the loader is given: a byte sequence, and whether reading it failed after those bytes ("an input that cannot be
read", R76). -/
structure ImageInput where
  bytes : List Byte
  unreadable : Bool
deriving DecidableEq, Repr

/-- An input that loads (R243). -/
def ImageInput.wellFormed (input : ImageInput) : Bool := !input.unreadable && imageWellFormed input.bytes

/-- What a load leaves: the machine, and the LoadError that the loader reports to the host (R241). -/
structure Loaded where
  state : State
  error : Option Fault
deriving DecidableEq, Repr

/-- Write DRAM words one after another. -/
def pokeAll : List (Word × Word) → State → State
  | [], s => s
  | (a, v) :: rest, s => pokeAll rest (s.pokeDram a v)

/-- The machine after a LoadError: still in IDLE, `dram.map` "in an unspecified partial state, to be reset before use"
(R76). `left` is the FREE VALUE: any values at any of the addresses of the whole words that were read (U15), and every
statement holds for every `left` (log entry 13). -/
def State.partlyLoaded (s : State) (input : ImageInput) (left : List (Word × Word)) : State :=
  { pokeAll (left.filter fun e => decide (e.1.toNat < input.bytes.length / 4)) s with loadFailed := true }

/-- "Every cache line is invalid" (R76). -/
def State.allLinesInvalid (s : State) : Bool := s.chain.stores.all fun st => st.isEmpty

/-- When an image may be loaded: in IDLE, before the first step (R222), "while every cache line is invalid (so that rule
R68 holds)" (R76), and after a LoadError not before reset (R243). Outside IDLE it is refused (U17). That it is refused by
name in IDLE too, over a valid line or after a LoadError, is the model's choice (DEDUCED; log entries 18, 13). -/
def whenLoadable {α : Type} (s : State) (k : Result α) : Result α :=
  inIdle s
    (if s.loadFailed = true then .refused .loadBeforeReset
     else if s.allLinesInvalid = true then k else .refused .loadOverValidLine)

/-- Load a memory image (R76, R243). A length that is no multiple of 4, or an input that cannot be read, is a LoadError,
reported beside the state it leaves; `left` says what that failed load placed, and is not used by one that succeeds. -/
def hostLoadImage (input : ImageInput) (left : List (Word × Word)) (s : State) : Result Loaded :=
  whenLoadable s
    (if input.wellFormed = false then .next { state := s.partlyLoaded input left, error := some .loadError }
     else if 4 * 2 ^ 32 < input.bytes.length then .refused .imageTooLong
     else .next { state := loadWords input.bytes 0 s, error := none })

/-- `get` on the chain head between steps: the cycles go to the caller, not to `cycle_count` (R77, R222). That it acts in
every run state, HALTED and FAULTED included, is DESIGN CHOICE, unsafe (log entry 21). -/
def hostGet (a : Word) (s : State) : Timed Word × State :=
  let r := s.chain.memRead s.config a
  (r.1, { s with chain := r.2 })

/-- `set` on the chain head between steps (R77, R222). That it acts in every run state, HALTED and FAULTED included, is
DESIGN CHOICE, unsafe (log entry 21). -/
def hostSet (a v : Word) (s : State) : Timed Unit × State :=
  let r := s.chain.memWrite s.config a v
  (r.1, { s with chain := r.2 })

/-- `inspect()`: `dram.map` as it stands; it does not look into the caches (R77). The other views of R221 are the fields
of the state. -/
def State.inspect (s : State) : List (Nat × Word) := s.chain.dram.inspect

/-! ## Ports and the clock edge (R220) -/

/-- The input ports as a rising edge of `clk` finds them (R220). -/
structure PortIn where
  rst : Bool
  stepEn : Bool
  ldValid : Bool
  ldAddr : Word
  ldData : Word
deriving DecidableEq, Repr

/-- The output ports (R220). -/
structure PortOut where
  running : Bool
  halted : Bool
  fault : Bool
  faultKind : BitVec 3
  faultStage : BitVec 3
  faultWord : Word
  faultAddr : Word
  cycleCount : Count
  stepCount : Count
deriving DecidableEq, Repr

/-- What the output ports show; the fault ports read 0 while there is no fault (R220). -/
def State.ports (s : State) : PortOut :=
  { running := s.running
    halted := decide (s.runState = .halted)
    fault := decide (s.runState = .faulted)
    faultKind := (s.faultRecord.map fun f => f.kind.code).getD 0
    faultStage := (s.faultRecord.map fun f => f.stage.code).getD 0
    faultWord := (s.faultRecord.map fun f => f.word).getD 0
    faultAddr := (s.faultRecord.map fun f => f.addr).getD 0
    cycleCount := s.cycleCount
    stepCount := s.stepCount }

/-- The load port's write, put into what a step at the same edge led to. -/
def withWord (a v : Word) (x : Host.Outcome State Fault Refusal) : Host.Outcome State Fault Refusal :=
  match x with
  | .next t => .next (t.pokeDram a v)
  | .fault f => .fault f
  | .refused q => .refused q

/-- One rising edge of `clk` (R220): reset wins (log entry 19); with no request nothing changes. In IDLE a step and a load
at one edge both have their effect; no rule orders them, and `loadFirst` is the FREE VALUE that does: every statement holds
for both (log entry 15). -/
def clockEdge (loadFirst : Bool) (p : PortIn) (s : State) : Host.Outcome State Fault Refusal :=
  if p.rst = true then .next s.rst
  else
    match p.stepEn, p.ldValid with
    | false, false => .next s
    | true, false => step s
    | false, true => hostLoadWord p.ldAddr p.ldData s
    | true, true =>
      inIdle s
        (if loadFirst = true then step (s.pokeDram p.ldAddr p.ldData) else withWord p.ldAddr p.ldData (step s))

end Sys2Proof.Machine
end

