-- ==== Sys2Proof/Safety.lean ====
section
/-!
DEFINITION. Sys2Proof/Safety.lean: the terms the statements use: the machine's invariant (`State.Inv`), an instruction's
own effect (`passage`, and the documented one, `ruleRegs` and `ruleMem`), running several steps, and agreement of two
instances.
-/

namespace Sys2Proof.Machine

/-! ## Well-formed in-flight records (R32, R33) -/

/-- Which fields of the record a variant's decode operation sets. -/
structure FieldsSet where
  rd : Bool
  a : Bool
  b : Bool
  addr : Bool
deriving DecidableEq, Repr

/-- Arithmetic, shift and logic: `rd`, `a`, `b` (R148, R169, R177). -/
def FieldsSet.alu : FieldsSet := { rd := true, a := true, b := true, addr := false }
/-- MOV, NOT: `rd`, `a` (R130, R176). -/
def FieldsSet.move : FieldsSet := { rd := true, a := true, b := false, addr := false }
/-- Compares: `a`, `b` (R150). -/
def FieldsSet.compare : FieldsSet := { rd := false, a := true, b := true, addr := false }
/-- Loads: `rd`, `addr` (R120, R121). -/
def FieldsSet.load : FieldsSet := { rd := true, a := false, b := false, addr := true }
/-- Stores: `a`, `addr` (R122, R123). -/
def FieldsSet.store : FieldsSet := { rd := false, a := true, b := false, addr := true }
/-- Jumps: `addr` (R181 to R184). -/
def FieldsSet.jump : FieldsSet := { rd := false, a := false, b := false, addr := true }
/-- SIH, INT: `a` (R190, R191). -/
def FieldsSet.code : FieldsSet := { rd := false, a := true, b := false, addr := false }
/-- RFI, NOP: nothing (R192, R193). -/
def FieldsSet.nothing : FieldsSet := { rd := false, a := false, b := false, addr := false }

/-- The fields each variant's decode operation sets. -/
def fieldsSet : Instr → FieldsSet
  | .addu _ _ _ => .alu
  | .addui _ _ _ => .alu
  | .adds _ _ _ => .alu
  | .addsi _ _ _ => .alu
  | .subu _ _ _ => .alu
  | .subui _ _ _ => .alu
  | .subs _ _ _ => .alu
  | .subsi _ _ _ => .alu
  | .mulu _ _ _ => .alu
  | .mului _ _ _ => .alu
  | .muls _ _ _ => .alu
  | .mulsi _ _ _ => .alu
  | .divu _ _ _ => .alu
  | .divui _ _ _ => .alu
  | .divs _ _ _ => .alu
  | .divsi _ _ _ => .alu
  | .cmpu _ _ => .compare
  | .cmps _ _ => .compare
  | .asl _ _ => .alu
  | .asli _ _ => .alu
  | .asr _ _ => .alu
  | .asri _ _ => .alu
  | .lsl _ _ => .alu
  | .lsli _ _ => .alu
  | .lsr _ _ => .alu
  | .lsri _ _ => .alu
  | .and _ _ _ => .alu
  | .andi _ _ _ => .alu
  | .or _ _ _ => .alu
  | .ori _ _ _ => .alu
  | .xor _ _ _ => .alu
  | .xori _ _ _ => .alu
  | .not _ _ => .move
  | .mov _ _ => .move
  | .nop => .nothing
  | .ldr _ _ => .load
  | .ldri _ _ => .load
  | .str _ _ => .store
  | .stri _ _ => .store
  | .jmp _ _ => .jump
  | .jmpi _ _ => .jump
  | .jmps _ _ => .jump
  | .jmpsi _ _ => .jump
  | .sih _ => .code
  | .int _ => .code
  | .rfi => .nothing

/-- The execute operation sets `res` (R204): the variants of shape `FieldsSet.alu`. -/
def resAtExecute (i : Instr) : Bool := decide (fieldsSet i = .alu)

/-- The access-memory operation sets `res` (R203): the loads. -/
def resAtAccess (i : Instr) : Bool := decide (fieldsSet i = .load)

/-- The record is the one its word decodes to, with exactly the fields of its variant set, and `res` set or not as
`res` says. -/
def InFlight.ok (res : Bool) (r : InFlight) : Bool :=
  decide (decodeWord r.word = .ok r.op) && decide (r.cond = condField r.word) &&
    decide ({ rd := r.rd.isSome, a := r.a.isSome, b := r.b.isSome, addr := r.addr.isSome } = fieldsSet r.op) &&
    decide (r.res.isSome = res)

/-- A record as decode leaves it. -/
def InFlight.decoded (r : InFlight) : Bool := r.ok false
/-- A record as execute leaves it. -/
def InFlight.executed (r : InFlight) : Bool := r.ok (resAtExecute r.op)
/-- A record as access-memory, and later write-back, leaves it. -/
def InFlight.accessed (r : InFlight) : Bool := r.ok (resAtExecute r.op || resAtAccess r.op)

/-! ## Well-formed memory (R39, R68) -/

/-- One level's valid lines: indexes strictly rising and in range, each tag that of a 32-bit address (R39). -/
def Store.wf (p : CacheParams) (st : Store) : Bool :=
  assocSorted st && st.all fun e => decide (e.1 < p.lineCount) && decide (e.2.tag * p.lineCount + e.1 < 2 ^ 32)

/-- Every level of the chain has one store, in its form. -/
def storesWf : List CacheParams → List Store → Bool
  | [], sts => sts.isEmpty
  | p :: ps, sts => !sts.isEmpty && Store.wf p (sts.headD []) && storesWf ps sts.tail

/-- "In every cache, a valid clean line with tag t at index i has `data = View(next, (t << k) | i)`" (R68). -/
def coherent : List CacheParams → List Store → Memory → Bool
  | [], _, _ => true
  | p :: ps, sts, m =>
    (sts.headD []).all (fun e => e.2.dirty || decide (e.2.data = chainView ps sts.tail m (p.address e.2.tag e.1))) &&
      coherent ps sts.tail m

/-- The chain's own invariant for an instance. -/
def Chain.ok (c : Config) (ch : Chain) : Bool :=
  c.wellFormed && ch.dram.wf && storesWf c.levels ch.stores && coherent c.levels ch.stores ch.dram.mem

/-! ## The machine's invariant -/

/-- All five slots hold well-formed contents; the fetch slot never holds the halt sentinel (R206). -/
def State.slotsOk (s : State) : Bool :=
  decide (s.slotF ≠ some 0#32) && s.slotD.all InFlight.decoded && s.slotX.all InFlight.executed &&
    s.slotM.all InFlight.accessed && s.slotW.all InFlight.accessed

/-- What each run state says of the slots, the outputs and the fault record (R37, R208, R215, R241). -/
def State.runStateOk (s : State) : Bool :=
  match s.runState with
  | .idle =>
    !s.anySlot && !s.running && decide (s.faultRecord = none) && decide (s.cycleCount = 0) && decide (s.stepCount = 0)
  | .running => s.anySlot && s.running && decide (s.faultRecord = none)
  | .halted => !s.anySlot && !s.running && decide (s.faultRecord = none)
  | .faulted => s.faultRecord.isSome

/-- The invariant of the machine: a legal instance, canonical and coherent memory, well-formed slots, and a run state
that fits. -/
def State.Inv (s : State) : Bool :=
  s.chain.ok s.config && s.slotsOk && s.runStateOk && decide (s.stageOp = .decode)

/-! ## Steps -/

/-- A step that is requested is taken (R215). -/
def State.active (s : State) : Bool := decide (s.runState = .idle) || decide (s.runState = .running)

/-- `n` steps; it stops at a step that does not answer a next state. -/
def runSteps : Nat → State → Host.Outcome State Fault Refusal
  | 0, s => .next s
  | n + 1, s =>
    match step s with
    | .next t => runSteps n t
    | .fault f => .fault f
    | .refused q => .refused q

/-- The condition of a jump whose record is `r`, over the register file `x` (R180). -/
def Fires (r : InFlight) (x : Regs) : Prop := r.cond = 0#5 ∨ readReg x Reg.status = r.cond.zeroExtend 32

/-- The instruction alone: its four stage operations one after another, with nothing between them (S3 of
95_test_vectors.md: "`decode` followed by `execute`/`access_memory`/`write_back`"); a fault it takes ends it. -/
def passage (i : Instr) (w : Word) (s : State) : Host.Outcome State Fault Refusal :=
  perform (fun u => exec i { u with slotF := some w, stageOp := .decode })
    (perform (fun u => exec i { u with stageOp := .execute })
      (perform (fun u => exec i { u with stageOp := .accessMemory })
        fun u => exec i { u with stageOp := .writeBack })) s

/-! ## The documented effect of an instruction, stated directly (R120 to R193)

A second reading of the rules, on whole register files and memories and with Lean's own word operations, for the
statement that the stage operations reproduce it. -/

/-- The destination register field, for the variants that have one (R94, R95). -/
def destination : Instr → Option Reg
  | .addu rd _ _ => some rd
  | .addui rd _ _ => some rd
  | .adds rd _ _ => some rd
  | .addsi rd _ _ => some rd
  | .subu rd _ _ => some rd
  | .subui rd _ _ => some rd
  | .subs rd _ _ => some rd
  | .subsi rd _ _ => some rd
  | .mulu rd _ _ => some rd
  | .mului rd _ _ => some rd
  | .muls rd _ _ => some rd
  | .mulsi rd _ _ => some rd
  | .divu rd _ _ => some rd
  | .divui rd _ _ => some rd
  | .divs rd _ _ => some rd
  | .divsi rd _ _ => some rd
  | .cmpu _ _ => none
  | .cmps _ _ => none
  | .asl rd _ => some rd
  | .asli rd _ => some rd
  | .asr rd _ => some rd
  | .asri rd _ => some rd
  | .lsl rd _ => some rd
  | .lsli rd _ => some rd
  | .lsr rd _ => some rd
  | .lsri rd _ => some rd
  | .and rd _ _ => some rd
  | .andi rd _ _ => some rd
  | .or rd _ _ => some rd
  | .ori rd _ _ => some rd
  | .xor rd _ _ => some rd
  | .xori rd _ _ => some rd
  | .not rd _ => some rd
  | .mov rd _ => some rd
  | .nop => none
  | .ldr rd _ => some rd
  | .ldri rd _ => some rd
  | .str _ _ => none
  | .stri _ _ => none
  | .jmp _ _ => none
  | .jmpi _ _ => none
  | .jmps _ _ => none
  | .jmpsi _ _ => none
  | .sih _ => none
  | .int _ => none
  | .rfi => none

/-- The operands of an instruction that divides, if it does. -/
def divisor (i : Instr) (x : Regs) : Option Word :=
  match i with
  | .addu _ _ _ => none
  | .addui _ _ _ => none
  | .adds _ _ _ => none
  | .addsi _ _ _ => none
  | .subu _ _ _ => none
  | .subui _ _ _ => none
  | .subs _ _ _ => none
  | .subsi _ _ _ => none
  | .mulu _ _ _ => none
  | .mului _ _ _ => none
  | .muls _ _ _ => none
  | .mulsi _ _ _ => none
  | .divu _ _ rs2 => some (readReg x rs2)
  | .divui _ _ imm9 => some (imm9.zeroExtend 32)
  | .divs _ _ rs2 => some (readReg x rs2)
  | .divsi _ _ imm9 => some (imm9.signExtend 32)
  | .cmpu _ _ => none
  | .cmps _ _ => none
  | .asl _ _ => none
  | .asli _ _ => none
  | .asr _ _ => none
  | .asri _ _ => none
  | .lsl _ _ => none
  | .lsli _ _ => none
  | .lsr _ _ => none
  | .lsri _ _ => none
  | .and _ _ _ => none
  | .andi _ _ _ => none
  | .or _ _ _ => none
  | .ori _ _ _ => none
  | .xor _ _ _ => none
  | .xori _ _ _ => none
  | .not _ _ => none
  | .mov _ _ => none
  | .nop => none
  | .ldr _ _ => none
  | .ldri _ _ => none
  | .str _ _ => none
  | .stri _ _ => none
  | .jmp _ _ => none
  | .jmpi _ _ => none
  | .jmps _ _ => none
  | .jmpsi _ _ => none
  | .sih _ => none
  | .int _ => none
  | .rfi => none

/-- The register file after the instruction alone, from registers `x` and memory `mem`. -/
def ruleRegs (i : Instr) (x : Regs) (mem : Word → Word) : Regs :=
  let pc := readReg x Reg.pc
  let fires (cond : Cond) : Bool := cond == 0#5 || readReg x Reg.status == cond.zeroExtend 32
  match i with
  | .addu rd rs1 rs2 => writeReg x rd (readReg x rs1 + readReg x rs2)
  | .addui rd rs1 imm9 => writeReg x rd (readReg x rs1 + imm9.zeroExtend 32)
  | .adds rd rs1 rs2 => writeReg x rd (readReg x rs1 + readReg x rs2)
  | .addsi rd rs1 imm9 => writeReg x rd (readReg x rs1 + imm9.signExtend 32)
  | .subu rd rs1 rs2 => writeReg x rd (readReg x rs1 - readReg x rs2)
  | .subui rd rs1 imm9 => writeReg x rd (readReg x rs1 - imm9.zeroExtend 32)
  | .subs rd rs1 rs2 => writeReg x rd (readReg x rs1 - readReg x rs2)
  | .subsi rd rs1 imm9 => writeReg x rd (readReg x rs1 - imm9.signExtend 32)
  | .mulu rd rs1 rs2 => writeReg x rd (readReg x rs1 * readReg x rs2)
  | .mului rd rs1 imm9 => writeReg x rd (readReg x rs1 * imm9.zeroExtend 32)
  | .muls rd rs1 rs2 => writeReg x rd (readReg x rs1 * readReg x rs2)
  | .mulsi rd rs1 imm9 => writeReg x rd (readReg x rs1 * imm9.signExtend 32)
  | .divu rd rs1 rs2 => writeReg x rd ((readReg x rs1).udiv (readReg x rs2))
  | .divui rd rs1 imm9 => writeReg x rd ((readReg x rs1).udiv (imm9.zeroExtend 32))
  | .divs rd rs1 rs2 => writeReg x rd ((readReg x rs1).sdiv (readReg x rs2))
  | .divsi rd rs1 imm9 => writeReg x rd ((readReg x rs1).sdiv (imm9.signExtend 32))
  | .cmpu rs1 rs2 => writeReg x Reg.status
      (if readReg x rs1 = readReg x rs2 then 1#32 else if readReg x rs2 < readReg x rs1 then 2#32 else 3#32)
  | .cmps rs1 rs2 => writeReg x Reg.status
      (if readReg x rs1 = readReg x rs2 then 1#32 else if (readReg x rs2).slt (readReg x rs1) then 2#32 else 3#32)
  | .asl rd rs => writeReg x rd (readReg x rd <<< (readReg x rs).toNat)
  | .asli rd imm14 => writeReg x rd (readReg x rd <<< imm14.toNat)
  | .asr rd rs => writeReg x rd ((readReg x rd).sshiftRight (readReg x rs).toNat)
  | .asri rd imm14 => writeReg x rd ((readReg x rd).sshiftRight imm14.toNat)
  | .lsl rd rs => writeReg x rd (readReg x rd <<< (readReg x rs).toNat)
  | .lsli rd imm14 => writeReg x rd (readReg x rd <<< imm14.toNat)
  | .lsr rd rs => writeReg x rd (readReg x rd >>> (readReg x rs).toNat)
  | .lsri rd imm14 => writeReg x rd (readReg x rd >>> imm14.toNat)
  | .and rd rs1 rs2 => writeReg x rd (readReg x rs1 &&& readReg x rs2)
  | .andi rd rs1 imm9 => writeReg x rd (readReg x rs1 &&& imm9.zeroExtend 32)
  | .or rd rs1 rs2 => writeReg x rd (readReg x rs1 ||| readReg x rs2)
  | .ori rd rs1 imm9 => writeReg x rd (readReg x rs1 ||| imm9.zeroExtend 32)
  | .xor rd rs1 rs2 => writeReg x rd (readReg x rs1 ^^^ readReg x rs2)
  | .xori rd rs1 imm9 => writeReg x rd (readReg x rs1 ^^^ imm9.zeroExtend 32)
  | .not rd rs => writeReg x rd (~~~(readReg x rs))
  | .mov rd rs => writeReg x rd (readReg x rs)
  | .nop => x
  | .ldr rd rs => writeReg x rd (mem (readReg x rs))
  | .ldri rd imm17 => writeReg x rd (mem (pc + 1#32 + imm17.signExtend 32))
  | .str _ _ => x
  | .stri _ _ => x
  | .jmp rs cond => if fires cond then writeReg x Reg.pc (readReg x rs) else x
  | .jmpi imm22 cond => if fires cond then writeReg x Reg.pc (pc + 1#32 + imm22.signExtend 32) else x
  | .jmps rs cond => if fires cond then writeReg (writeReg x Reg.link (pc + 1#32)) Reg.pc (readReg x rs) else x
  | .jmpsi imm22 cond =>
    if fires cond then writeReg (writeReg x Reg.link (pc + 1#32)) Reg.pc (pc + 1#32 + imm22.signExtend 32) else x
  | .sih rs => writeReg x Reg.intHandler (readReg x rs)
  | .int _ => writeReg (writeReg x Reg.intLink (pc + 1#32)) Reg.pc (readReg x Reg.intHandler)
  | .rfi => writeReg x Reg.pc (readReg x Reg.intLink)

/-- The word an instruction alone stores, and its address: STR, STRI, and INT's record of its code. -/
def ruleStore (i : Instr) (x : Regs) (intCodeAddr : Word) : Option (Word × Word) :=
  match i with
  | .addu _ _ _ => none
  | .addui _ _ _ => none
  | .adds _ _ _ => none
  | .addsi _ _ _ => none
  | .subu _ _ _ => none
  | .subui _ _ _ => none
  | .subs _ _ _ => none
  | .subsi _ _ _ => none
  | .mulu _ _ _ => none
  | .mului _ _ _ => none
  | .muls _ _ _ => none
  | .mulsi _ _ _ => none
  | .divu _ _ _ => none
  | .divui _ _ _ => none
  | .divs _ _ _ => none
  | .divsi _ _ _ => none
  | .cmpu _ _ => none
  | .cmps _ _ => none
  | .asl _ _ => none
  | .asli _ _ => none
  | .asr _ _ => none
  | .asri _ _ => none
  | .lsl _ _ => none
  | .lsli _ _ => none
  | .lsr _ _ => none
  | .lsri _ _ => none
  | .and _ _ _ => none
  | .andi _ _ _ => none
  | .or _ _ _ => none
  | .ori _ _ _ => none
  | .xor _ _ _ => none
  | .xori _ _ _ => none
  | .not _ _ => none
  | .mov _ _ => none
  | .nop => none
  | .ldr _ _ => none
  | .ldri _ _ => none
  | .str rv rs => some (readReg x rs, readReg x rv)
  | .stri rv imm17 => some (readReg x Reg.pc + 1#32 + imm17.signExtend 32, readReg x rv)
  | .jmp _ _ => none
  | .jmpi _ _ => none
  | .jmps _ _ => none
  | .jmpsi _ _ => none
  | .sih _ => none
  | .int imm22 => some (intCodeAddr, imm22.zeroExtend 32)
  | .rfi => none

/-- The memory after the instruction alone. -/
def ruleMem (i : Instr) (x : Regs) (intCodeAddr : Word) (mem : Word → Word) (a : Word) : Word :=
  match ruleStore i x intCodeAddr with
  | some (t, v) => if a = t then v else mem a
  | none => mem a

/-- The register file after the write-back of the record `r`, from registers `x`: what every producer commits, from the
fields its earlier stages set (R120 to R193). A field that the variant leaves unset is not used. -/
def ruleCommit (r : InFlight) (x : Regs) : Regs :=
  let rd := r.rd.getD 0#5
  let a := r.a.getD 0#32
  let b := r.b.getD 0#32
  let target := r.addr.getD 0#32
  let result := writeReg x rd (r.res.getD 0#32)
  let pc := readReg x Reg.pc
  let fires : Bool := r.cond == 0#5 || readReg x Reg.status == r.cond.zeroExtend 32
  match r.op with
  | .addu _ _ _ => result
  | .addui _ _ _ => result
  | .adds _ _ _ => result
  | .addsi _ _ _ => result
  | .subu _ _ _ => result
  | .subui _ _ _ => result
  | .subs _ _ _ => result
  | .subsi _ _ _ => result
  | .mulu _ _ _ => result
  | .mului _ _ _ => result
  | .muls _ _ _ => result
  | .mulsi _ _ _ => result
  | .divu _ _ _ => result
  | .divui _ _ _ => result
  | .divs _ _ _ => result
  | .divsi _ _ _ => result
  | .cmpu _ _ => writeReg x Reg.status (if a = b then 1#32 else if b < a then 2#32 else 3#32)
  | .cmps _ _ => writeReg x Reg.status (if a = b then 1#32 else if b.slt a then 2#32 else 3#32)
  | .asl _ _ => result
  | .asli _ _ => result
  | .asr _ _ => result
  | .asri _ _ => result
  | .lsl _ _ => result
  | .lsli _ _ => result
  | .lsr _ _ => result
  | .lsri _ _ => result
  | .and _ _ _ => result
  | .andi _ _ _ => result
  | .or _ _ _ => result
  | .ori _ _ _ => result
  | .xor _ _ _ => result
  | .xori _ _ _ => result
  | .not _ _ => writeReg x rd (~~~a)
  | .mov _ _ => writeReg x rd a
  | .nop => x
  | .ldr _ _ => result
  | .ldri _ _ => result
  | .str _ _ => x
  | .stri _ _ => x
  | .jmp _ _ => if fires then writeReg x Reg.pc target else x
  | .jmpi _ _ => if fires then writeReg x Reg.pc target else x
  | .jmps _ _ => if fires then writeReg (writeReg x Reg.link (pc + 1#32)) Reg.pc target else x
  | .jmpsi _ _ => if fires then writeReg (writeReg x Reg.link (pc + 1#32)) Reg.pc target else x
  | .sih _ => writeReg x Reg.intHandler a
  | .int _ => writeReg (writeReg x Reg.intLink (pc + 1#32)) Reg.pc (readReg x Reg.intHandler)
  | .rfi => writeReg x Reg.pc (readReg x Reg.intLink)

/-! ## Agreement of two instances (R70, R286) -/

/-- The two states agree on everything a program can observe, and on every slot, output and run state: they may differ
in the cache levels, the delays, the caches' contents, DRAM and `cycle_count`. -/
def sameButTiming (s t : State) : Prop :=
  s.regs = t.regs ∧ s.slotF = t.slotF ∧ s.slotD = t.slotD ∧ s.slotX = t.slotX ∧ s.slotM = t.slotM ∧ s.slotW = t.slotW ∧
    s.stepCount = t.stepCount ∧ s.runState = t.runState ∧ s.running = t.running ∧ s.faultRecord = t.faultRecord ∧
    s.loadFailed = t.loadFailed ∧ s.stageOp = t.stageOp ∧ s.config.intCodeAddr = t.config.intCodeAddr ∧ ∀ a, s.mem a = t.mem a

end Sys2Proof.Machine
end

