-- ==== Sys2Proof/Certificates/Slice0/Obligations.lean ====
section
/-!
DEFINITION. Sys2Proof/Certificates/Slice0/Obligations.lean: the statements about the model. The definitions before them
are shapes that several statements share; each obligation says in its docstring which rules it formalises.
-/

namespace Sys2Proof.Machine

/-! ## Which words are an instruction (R90, R94 to R97, R100 to R105)

Bits the format does not use are not mentioned, so they may be anything. -/

/-- Format A3R. -/
def WordsA3R (op : BitVec 6) (ctor : Reg → Reg → Reg → Instr) : Prop :=
  ∀ w : Word, w.extractLsb' 5 2 = 0#2 → w.extractLsb' 7 6 = op →
    decodeWord w = .ok (ctor (w.extractLsb' 13 5) (w.extractLsb' 18 5) (w.extractLsb' 23 5))
/-- Format A3I. -/
def WordsA3I (op : BitVec 6) (ctor : Reg → Reg → BitVec 9 → Instr) : Prop :=
  ∀ w : Word, w.extractLsb' 5 2 = 0#2 → w.extractLsb' 7 6 = op →
    decodeWord w = .ok (ctor (w.extractLsb' 13 5) (w.extractLsb' 18 5) (w.extractLsb' 23 9))
/-- Format A2R. -/
def WordsA2R (op : BitVec 6) (ctor : Reg → Reg → Instr) : Prop :=
  ∀ w : Word, w.extractLsb' 5 2 = 0#2 → w.extractLsb' 7 6 = op →
    decodeWord w = .ok (ctor (w.extractLsb' 13 5) (w.extractLsb' 18 5))
/-- Format A2I. -/
def WordsA2I (op : BitVec 6) (ctor : Reg → BitVec 14 → Instr) : Prop :=
  ∀ w : Word, w.extractLsb' 5 2 = 0#2 → w.extractLsb' 7 6 = op →
    decodeWord w = .ok (ctor (w.extractLsb' 13 5) (w.extractLsb' 18 14))
/-- Formats M2R and M2I: `w[9:5]` is the pattern of the rule. -/
def WordsM (pattern : BitVec 5) (i : Word → Instr) : Prop :=
  ∀ w : Word, w.extractLsb' 5 5 = pattern → decodeWord w = .ok (i w)

/-! ## What one stage operation does, as the whole next state -/

/-- `decode` fills the blank record from the registers and changes nothing else. -/
def DecodesTo (i : Instr) (fill : Regs → InFlight → InFlight) : Prop :=
  ∀ (s : State) (w : Word), s.stageOp = .decode → s.slotF = some w →
    exec i s = .next { s with slotD := some (fill s.regs (InFlight.blank i w (w.extractLsb' 0 5))) }

/-- `execute` sets `res` from `a` and `b`, for operands that `ok` admits, and changes nothing else. -/
def ExecutesTo (i : Instr) (ok : Word → Word → Prop) (f : Word → Word → Word) : Prop :=
  ∀ (s : State) (r : InFlight) (a b : Word), s.stageOp = .execute → s.slotD = some r → r.a = some a → r.b = some b →
    ok a b → exec i s = .next { s with slotX := some { r with res := some (f a b) } }

/-- `execute` only moves the record. -/
def ExecuteMoves (i : Instr) : Prop :=
  ∀ (s : State) (r : InFlight), s.stageOp = .execute → s.slotD = some r → exec i s = .next { s with slotX := some r }

/-- `access_memory` only moves the record. -/
def AccessMoves (i : Instr) : Prop :=
  ∀ (s : State) (r : InFlight), s.stageOp = .accessMemory → s.slotX = some r →
    exec i s = .next { s with slotM := some r }

/-- `access_memory` reads `Mem(I.addr)` into `res`, adds the cycles of the read, and leaves `Mem` as it was. -/
def AccessLoads (i : Instr) : Prop :=
  ∀ (s : State) (r : InFlight) (a : Word), s.stageOp = .accessMemory → s.slotX = some r → r.addr = some a →
    s.chain.ok s.config = true →
    ∃ n ch, s.chain.memRead s.config a = (.wait n (s.mem a), ch) ∧
      exec i s =
        .next { s with
          slotM := some { r with res := some (s.mem a) }, chain := ch, cycleCount := s.cycleCount + BitVec.ofNat 64 n } ∧
      ∀ b, ch.view s.config b = s.mem b

/-- `access_memory` writes `I.a` to the address `target` names, adds the cycles of the write, and leaves every other word
of `Mem` as it was. -/
def AccessStores (i : Instr) (target : State → InFlight → Option Word) : Prop :=
  ∀ (s : State) (r : InFlight) (a v : Word), s.stageOp = .accessMemory → s.slotX = some r → target s r = some a →
    r.a = some v → s.chain.ok s.config = true →
    ∃ n ch, s.chain.memWrite s.config a v = (.wait n (), ch) ∧
      exec i s =
        .next { s with slotM := some r, chain := ch, cycleCount := s.cycleCount + BitVec.ofNat 64 n } ∧
      ∀ b, ch.view s.config b = if b = a then v else s.mem b

/-- `write_back` writes `I.rd` with the value `v` names, and no other register. -/
def WritesRd (i : Instr) (v : InFlight → Option Word) : Prop :=
  ∀ (s : State) (r : InFlight) (d : Reg) (x : Word), s.stageOp = .writeBack → s.slotM = some r → r.rd = some d →
    v r = some x → exec i s = .next { s.setReg d x with slotW := some r }

/-- `write_back` turns the register file into `f r x`. -/
def WritesRegs (i : Instr) (ok : InFlight → Prop) (f : InFlight → Regs → Regs) : Prop :=
  ∀ (s : State) (r : InFlight), s.stageOp = .writeBack → s.slotM = some r → ok r →
    exec i s = .next { s with regs := f r s.regs, slotW := some r }

/-! ## Shapes of instruction rules -/

/-- The rule of a computing instruction whose operands its decode captures by `fill` (R148, R169, R177). -/
def ComputeRule (i : Instr) (ok : Word → Word → Prop) (f : Word → Word → Word) (fill : Regs → InFlight → InFlight) :
    Prop :=
  DecodesTo i fill ∧ ExecutesTo i ok f ∧ AccessMoves i ∧ WritesRd i (fun r => r.res)

/-- Every pair of operands. -/
def anyOperands (_ _ : Word) : Prop := True

/-- The divisor is not zero (R131). -/
def divisorNotZero (_ b : Word) : Prop := b ≠ 0#32

/-- Format A3R, arithmetic and logic (R148, R169). -/
def RegRegRule (op : BitVec 6) (ctor : Reg → Reg → Reg → Instr) (ok : Word → Word → Prop) (f : Word → Word → Word) :
    Prop :=
  WordsA3R op ctor ∧ ∀ rd rs1 rs2, ComputeRule (ctor rd rs1 rs2) ok f fun x r =>
    { r with rd := some rd, a := some (readReg x rs1), b := some (readReg x rs2) }

/-- Format A3I, with the immediate extended by `ext` (R97, R148, R169). -/
def RegImmRule (op : BitVec 6) (ctor : Reg → Reg → BitVec 9 → Instr) (ext : BitVec 9 → Word)
    (ok : Word → Word → Prop) (f : Word → Word → Word) : Prop :=
  WordsA3I op ctor ∧ ∀ rd rs1 imm, ComputeRule (ctor rd rs1 imm) ok f fun x r =>
    { r with rd := some rd, a := some (readReg x rs1), b := some (ext imm) }

/-- Format A2R, a shift by a register (R177). -/
def ShiftRegRule (op : BitVec 6) (ctor : Reg → Reg → Instr) (f : Word → Word → Word) : Prop :=
  WordsA2R op ctor ∧ ∀ rd rs, ComputeRule (ctor rd rs) anyOperands f fun x r =>
    { r with rd := some rd, a := some (readReg x rd), b := some (readReg x rs) }

/-- Format A2I, a shift by an immediate (R97, R177). -/
def ShiftImmRule (op : BitVec 6) (ctor : Reg → BitVec 14 → Instr) (f : Word → Word → Word) : Prop :=
  WordsA2I op ctor ∧ ∀ rd imm, ComputeRule (ctor rd imm) anyOperands f fun x r =>
    { r with rd := some rd, a := some (readReg x rd), b := some (imm.zeroExtend 32) }

/-- A divide by zero takes the ArithmeticError of the execute operation: the machine is FAULTED with its record and
nothing else changes (R144, R213, R244). -/
def DivideByZeroFaults (i : Instr) : Prop :=
  ∀ (s : State) (r : InFlight) (a : Word), s.stageOp = .execute → s.slotD = some r → r.a = some a → r.b = some 0#32 →
    exec i s =
      .next { s with
        runState := .faulted, stageOp := .decode,
        faultRecord := some { kind := .arithmeticError, stage := .execute, word := r.word, addr := 0#32 } }

/-- A jump to the target `fill` captures; taken, it turns the register file into `go target x`; not taken, it changes no
register (R180, R185). -/
def JumpRule (i : Instr) (fill : Regs → InFlight → InFlight) (go : Word → Regs → Regs) : Prop :=
  DecodesTo i fill ∧ ExecuteMoves i ∧ AccessMoves i ∧
    ∀ (s : State) (r : InFlight) (t : Word), s.stageOp = .writeBack → s.slotM = some r → r.addr = some t →
      (Fires r s.regs → exec i s = .next { s with regs := go t s.regs, slotW := some r }) ∧
        (¬ Fires r s.regs → exec i s = .next { s with slotW := some r })

/-! ## Images (R76) -/

/-- The bytes of an image, each word with its most significant byte first. -/
def imageOf (ws : List Word) : List Byte :=
  ws.flatMap fun w => [w.extractLsb' 24 8, w.extractLsb' 16 8, w.extractLsb' 8 8, w.extractLsb' 0 8]

/-! ## The fault ports (R220) -/

/-- `fault` is 1 and the four ports that say which show these values. -/
def FaultPorts (s : State) (kind stage : BitVec 3) (word addr : Word) : Prop :=
  s.ports.fault = true ∧ s.ports.faultKind = kind ∧ s.ports.faultStage = stage ∧ s.ports.faultWord = word ∧
    s.ports.faultAddr = addr

/-! ## Cycles of one access-memory operation (R36, R211) -/

/-- `cycle_count` grew by the cycles that a read of `addr` reports. -/
def AddsReadCycles (s s2 : State) (addr : Option Word) : Prop :=
  ∃ a n v, addr = some a ∧ (s.chain.memRead s.config a).1 = .wait n v ∧
    s2.cycleCount = s.cycleCount + BitVec.ofNat 64 n

/-- `cycle_count` grew by the cycles that a write of `value` at `addr` reports. -/
def AddsWriteCycles (s s2 : State) (addr value : Option Word) : Prop :=
  ∃ a v n, addr = some a ∧ value = some v ∧ (s.chain.memWrite s.config a v).1 = .wait n () ∧
    s2.cycleCount = s.cycleCount + BitVec.ofNat 64 n

end Sys2Proof.Machine

open Sys2Proof Sys2Proof.Machine

/-! ## Encoding -/

/-- For every instruction of the table, with every operand at every value its field admits, the decoder reads from its canonical word the instruction itself. -/
def Obligations.DecodeOfEncode : Prop :=
  ∀ i : Instr, decodeWord (encode i) = .ok i

/-- A word is rejected by the decoder exactly when it has itype 3, or itype 0 with opcode 35 to 63, or itype 1 with opcode 4 to 7, or itype 2 with opcode 7; the decode action then takes DecodeError: the machine is FAULTED with the kind, the stage and the word recorded and address 0, and nothing else of the hardware changes (that the Err is taken where it arises, with the model's own field stageOp back at decode, is log entry 4). -/
def Obligations.IllegalWordsAreExactlyTheUnassignedPairs : Prop :=
  ∀ w : Word,
    ((∃ e, decodeWord w = .error e) ↔
      w.extractLsb' 5 2 = 3#2 ∨ (w.extractLsb' 5 2 = 0#2 ∧ 35 ≤ (w.extractLsb' 7 6).toNat) ∨
        (w.extractLsb' 5 2 = 1#2 ∧ 4 ≤ (w.extractLsb' 7 3).toNat) ∨
        (w.extractLsb' 5 2 = 2#2 ∧ (w.extractLsb' 7 3).toNat = 7)) ∧
    ∀ s : State, s.slotF = some w → (∃ e, decodeWord w = .error e) →
      actDecode s =
        .next { s with
          runState := .faulted, stageOp := .decode,
          faultRecord := some { kind := .decodeError, stage := .decode, word := w, addr := 0#32 } }

/-- If a word decodes to an instruction, every word that agrees with it on type, opcode, the operands of its format and, for the four jumps, the condition decodes to the same instruction. -/
def Obligations.UnusedBitsAreIgnored : Prop :=
  ∀ (w w' : Word) (i : Instr), decodeWord w = .ok i → w &&& usedBits i = w' &&& usedBits i → decodeWord w' = .ok i

/-- The words 0x01046000, 0x00050420, 0x00028D20, 0xFFFFE4C2, 0x00001EC0, 0x00001100, 0xF104601F and the source's example literal 0x02028500 decode to ADDU x3, x1, x2; LDR x1, [x10]; STR x3, [x5]; JMPI.GT #-7; INT #7; NOP; ADDU x3, x1, x2; and MULS x20, x0, x4. -/
def Obligations.SpecWordsDecode : Prop :=
  decodeWord 0x01046000#32 = .ok (.addu 3#5 1#5 2#5) ∧ decodeWord 0x00050420#32 = .ok (.ldr 1#5 10#5) ∧
    decodeWord 0x00028D20#32 = .ok (.str 3#5 5#5) ∧ decodeWord 0xFFFFE4C2#32 = .ok (.jmpi (BitVec.ofInt 22 (-7)) 2#5) ∧
    decodeWord 0x00001EC0#32 = .ok (.int 7#22) ∧ decodeWord 0x00001100#32 = .ok .nop ∧
    decodeWord 0xF104601F#32 = .ok (.addu 3#5 1#5 2#5) ∧ decodeWord 0x02028500#32 = .ok (.muls 20#5 0#5 4#5)

/-! ## Registers and reset -/

/-- After a write of any register, that register reads the value and every other one as before; no register is an exception; x[0] is 0 after reset of every instance. -/
def Obligations.NoRegisterIsHardwired : Prop :=
  (∀ (s : State) (r q : Reg) (v : Word), (s.setReg r v).reg q = if q = r then v else s.reg q) ∧
    ∀ c : Config, (State.resetWith c).reg 0#5 = 0#32

/-- A clock edge with rst high leaves, from any state and whatever the other inputs: all 32 registers 0, all five slots empty, no valid cache line in any level, dram.map empty and every word reading 0, both counters 0, run_state IDLE, the fault record cleared; nothing of the old state but the instance's parameters survives. -/
def Obligations.ResetLeavesTheTableValues : Prop :=
  ∀ (loadFirst : Bool) (p : PortIn) (s : State), p.rst = true →
    ∃ t, clockEdge loadFirst p s = .next t ∧ (∀ r, t.reg r = 0#32) ∧
      t.slotF = none ∧ t.slotD = none ∧ t.slotX = none ∧ t.slotM = none ∧ t.slotW = none ∧
      (∀ st ∈ t.chain.stores, ∀ i, assocFind st i = none) ∧ t.inspect = [] ∧ (∀ a, t.mem a = 0#32) ∧
      t.cycleCount = 0 ∧ t.stepCount = 0 ∧ t.runState = .idle ∧ t.faultRecord = none ∧
      ∀ s' : State, s'.config = s.config → clockEdge loadFirst p s' = .next t

/-- When exec answers a next state: either the execute operation of a divide whose second operand is 0 took its ArithmeticError and changed nothing else; or registers change in a write-back only; the memory chain and cycle_count in an access-memory only; of the slots only the stage's own one changes, and a write-back hands on the record it took; the fetch slot, the run state, the outputs, step_count, the fault record and the parameters never change. -/
def Obligations.OnlyWriteBackWritesRegisters : Prop :=
  ∀ (i : Instr) (s t : State), exec i s = .next t →
    (s.stageOp = .execute ∧ (divisor i s.regs).isSome = true ∧
      ∃ r, s.slotD = some r ∧ r.b = some 0#32 ∧ t = s.abort (.arithmeticError r.word)) ∨
    (s.stageOp ≠ .writeBack → t.regs = s.regs ∧ t.slotW = s.slotW) ∧
    (s.stageOp = .writeBack → t.slotW = s.slotM) ∧
    (s.stageOp ≠ .accessMemory → t.chain = s.chain ∧ t.cycleCount = s.cycleCount ∧ t.slotM = s.slotM) ∧
    (s.stageOp ≠ .execute → t.slotX = s.slotX) ∧ (s.stageOp ≠ .decode → t.slotD = s.slotD) ∧
    t.slotF = s.slotF ∧ t.runState = s.runState ∧ t.running = s.running ∧ t.stepCount = s.stepCount ∧
    t.faultRecord = s.faultRecord ∧ t.loadFailed = s.loadFailed ∧ t.config = s.config ∧ t.stageOp = s.stageOp

/-- When a write-back of an instruction other than CMPU and CMPS answers a next state and the record's destination is not register 29, register 29 is unchanged. -/
def Obligations.StatusIsWrittenByComparesAndDestinationsOnly : Prop :=
  ∀ (i : Instr) (s t : State) (r : InFlight), s.stageOp = .writeBack → s.slotM = some r → r.rd ≠ some Reg.status →
    (∀ a b, i ≠ .cmpu a b) → (∀ a b, i ≠ .cmps a b) → exec i s = .next t → t.reg Reg.status = s.reg Reg.status

/-! ## Instruction rules: the four stage operations of every instruction -/

/-- MOV is ALU opcode 33 and NOT opcode 32 in format A2R; decode takes the destination index and the source's value, execute and access-memory only move the record, write-back writes the destination with the value (MOV) or its complement (NOT); each answers a next state in which nothing else changed. -/
def Obligations.MoveAndNotRules : Prop :=
  WordsA2R 33#6 .mov ∧ WordsA2R 32#6 .not ∧ ∀ rd rs : Reg,
    (DecodesTo (.mov rd rs) (fun x r => { r with rd := some rd, a := some (readReg x rs) }) ∧
      ExecuteMoves (.mov rd rs) ∧ AccessMoves (.mov rd rs) ∧ WritesRd (.mov rd rs) (fun r => r.a)) ∧
    DecodesTo (.not rd rs) (fun x r => { r with rd := some rd, a := some (readReg x rs) }) ∧
      ExecuteMoves (.not rd rs) ∧ AccessMoves (.not rd rs) ∧ WritesRd (.not rd rs) (fun r => r.a.map fun v => ~~~v)

/-- For each of the six register forms: the words of its opcode decode to it; decode captures the two sources; execute computes the sum, difference or product modulo 2^32; access-memory only moves the record; write-back writes the destination and nothing else; each answers a next state. -/
def Obligations.AddSubtractMultiplyRegisterRules : Prop :=
  RegRegRule 0#6 .addu anyOperands (fun a b => a + b) ∧ RegRegRule 2#6 .adds anyOperands (fun a b => a + b) ∧
    RegRegRule 4#6 .subu anyOperands (fun a b => a - b) ∧ RegRegRule 6#6 .subs anyOperands (fun a b => a - b) ∧
    RegRegRule 8#6 .mulu anyOperands (fun a b => a * b) ∧ RegRegRule 10#6 .muls anyOperands (fun a b => a * b)

/-- For each of the six immediate forms: the words of its opcode decode to it; decode captures the first source and imm9, zero-extended for the unsigned and sign-extended for the signed mnemonics; execute computes modulo 2^32; write-back writes the destination and nothing else; each answers a next state. -/
def Obligations.AddSubtractMultiplyImmediateRules : Prop :=
  RegImmRule 1#6 .addui (fun v => v.zeroExtend 32) anyOperands (fun a b => a + b) ∧
    RegImmRule 3#6 .addsi (fun v => v.signExtend 32) anyOperands (fun a b => a + b) ∧
    RegImmRule 5#6 .subui (fun v => v.zeroExtend 32) anyOperands (fun a b => a - b) ∧
    RegImmRule 7#6 .subsi (fun v => v.signExtend 32) anyOperands (fun a b => a - b) ∧
    RegImmRule 9#6 .mului (fun v => v.zeroExtend 32) anyOperands (fun a b => a * b) ∧
    RegImmRule 11#6 .mulsi (fun v => v.signExtend 32) anyOperands (fun a b => a * b)

/-- For each divide: the words of its opcode decode to it; with a divisor other than zero execute computes the unsigned quotient, or the signed quotient rounded toward zero with -2^31 / -1 wrapping to -2^31; the other operations are those of arithmetic; each answers a next state. -/
def Obligations.DivideRules : Prop :=
  RegRegRule 12#6 .divu divisorNotZero (fun a b => a.udiv b) ∧
    RegImmRule 13#6 .divui (fun v => v.zeroExtend 32) divisorNotZero (fun a b => a.udiv b) ∧
    RegRegRule 14#6 .divs divisorNotZero (fun a b => a.sdiv b) ∧
    RegImmRule 15#6 .divsi (fun v => v.signExtend 32) divisorNotZero (fun a b => a.sdiv b)

/-- For each of the four divides, execute with second operand 0 takes ArithmeticError whatever the first operand: the next state is FAULTED with the kind, the stage and the word of the record recorded, and nothing else changed. -/
def Obligations.DivideByZeroIsAnArithmeticError : Prop :=
  (∀ rd rs1 rs2 : Reg, DivideByZeroFaults (.divu rd rs1 rs2) ∧ DivideByZeroFaults (.divs rd rs1 rs2)) ∧
    ∀ (rd rs1 : Reg) (imm : BitVec 9), DivideByZeroFaults (.divui rd rs1 imm) ∧ DivideByZeroFaults (.divsi rd rs1 imm)

/-- For a divisor other than 0: u(div_u(A, B)) = floor(u(A) / u(B)); s(div_s(A, B)) is the quotient of s(A) by s(B) rounded toward zero, except that 0x80000000 / 0xFFFFFFFF gives 0x80000000. -/
def Obligations.DivisionMeetsTheLawsOfTheRule : Prop :=
  ∀ a b : Word, b ≠ 0#32 →
    (aluDivU a b).toNat = a.toNat / b.toNat ∧
    (¬ (a = 0x80000000#32 ∧ b = 0xFFFFFFFF#32) → (aluDivS a b).toInt = a.toInt.tdiv b.toInt) ∧
    (a = 0x80000000#32 ∧ b = 0xFFFFFFFF#32 → aluDivS a b = 0x80000000#32)

/-- The words of ALU opcodes 16 and 17 decode to CMPU and CMPS; decode captures both sources; execute and access-memory only move the record; write-back overwrites register 29 with 1 if the operands are equal, 2 if the first is greater, 3 if it is less, in the unsigned or the signed reading, and writes no other register. -/
def Obligations.CompareRules : Prop :=
  WordsA2R 16#6 .cmpu ∧ WordsA2R 17#6 .cmps ∧ ∀ rs1 rs2 : Reg,
    (∀ i ∈ [Instr.cmpu rs1 rs2, Instr.cmps rs1 rs2],
      DecodesTo i (fun x r => { r with a := some (readReg x rs1), b := some (readReg x rs2) }) ∧
        ExecuteMoves i ∧ AccessMoves i) ∧
    ∀ (s : State) (r : InFlight) (a b : Word), s.stageOp = .writeBack → s.slotM = some r → r.a = some a → r.b = some b →
      exec (.cmpu rs1 rs2) s =
        .next { s.setReg Reg.status (if a = b then 1#32 else if b < a then 2#32 else 3#32) with slotW := some r } ∧
      exec (.cmps rs1 rs2) s =
        .next { s.setReg Reg.status (if a = b then 1#32 else if b.slt a then 2#32 else 3#32) with slotW := some r }

/-- For each shift: the words of its opcode decode to it; decode captures the old value of the destination and the amount, a register or the zero-extended imm14; execute shifts by the whole amount (ASL and LSL alike, ASR copying the sign, LSR inserting zeros); write-back writes the destination and nothing else; each answers a next state. -/
def Obligations.ShiftRules : Prop :=
  ShiftRegRule 18#6 .asl (fun a n => a <<< n.toNat) ∧ ShiftImmRule 19#6 .asli (fun a n => a <<< n.toNat) ∧
    ShiftRegRule 20#6 .asr (fun a n => a.sshiftRight n.toNat) ∧
    ShiftImmRule 21#6 .asri (fun a n => a.sshiftRight n.toNat) ∧
    ShiftRegRule 22#6 .lsl (fun a n => a <<< n.toNat) ∧ ShiftImmRule 23#6 .lsli (fun a n => a <<< n.toNat) ∧
    ShiftRegRule 24#6 .lsr (fun a n => a >>> n.toNat) ∧ ShiftImmRule 25#6 .lsri (fun a n => a >>> n.toNat)

/-- For amounts below 32, shl is A * 2^n modulo 2^32, shr_l is floor(u(A) / 2^n), shr_a is floor(s(A) / 2^n); for amounts of 32 or more the first two give 0 and the third copies of bit 31; a shift by 0 returns A; ASL and LSL execute the same operation. -/
def Obligations.ShiftOperationsAreTheTable : Prop :=
  (∀ a n : Word,
    (n.toNat < 32 →
      (aluShl a n).toNat = a.toNat * 2 ^ n.toNat % 2 ^ 32 ∧ (aluShrL a n).toNat = a.toNat / 2 ^ n.toNat ∧
        (aluShrA a n).toInt = a.toInt / 2 ^ n.toNat) ∧
    (32 ≤ n.toNat →
      aluShl a n = 0#32 ∧ aluShrL a n = 0#32 ∧ aluShrA a n = if a.getLsbD 31 then 0xFFFFFFFF#32 else 0#32) ∧
    (n = 0#32 → aluShl a n = a ∧ aluShrL a n = a ∧ aluShrA a n = a)) ∧
  ∀ (rd rs : Reg) (s : State) (r : InFlight) (a n : Word), s.stageOp = .execute → s.slotD = some r → r.a = some a →
    r.b = some n →
    exec (.asl rd rs) s = .next { s with slotX := some { r with res := some (aluShl a n) } } ∧
      exec (.lsl rd rs) s = .next { s with slotX := some { r with res := some (aluShl a n) } }

/-- For each logic instruction: the words of its opcode decode to it; decode captures the first source and the second source or the zero-extended imm9; execute combines bit by bit; write-back writes the destination and nothing else; each answers a next state. -/
def Obligations.LogicRules : Prop :=
  RegRegRule 26#6 .and anyOperands (fun a b => a &&& b) ∧
    RegImmRule 27#6 .andi (fun v => v.zeroExtend 32) anyOperands (fun a b => a &&& b) ∧
    RegRegRule 28#6 .or anyOperands (fun a b => a ||| b) ∧
    RegImmRule 29#6 .ori (fun v => v.zeroExtend 32) anyOperands (fun a b => a ||| b) ∧
    RegRegRule 30#6 .xor anyOperands (fun a b => a ^^^ b) ∧
    RegImmRule 31#6 .xori (fun v => v.zeroExtend 32) anyOperands (fun a b => a ^^^ b)

/-- The words with w[9:5] = 00001 and 00101 decode to LDR and LDRI; decode captures the destination index and the address, x[rs] or x[28] + 1 + sext_17(imm17); execute only moves the record; access-memory reads Mem(I.addr), adds the read's cycles to cycle_count and leaves every word of Mem as it was; write-back writes the destination with the word and nothing else; each answers a next state. -/
def Obligations.LoadRules : Prop :=
  WordsM 0b00001#5 (fun w => .ldr (w.extractLsb' 10 5) (w.extractLsb' 15 5)) ∧
    WordsM 0b00101#5 (fun w => .ldri (w.extractLsb' 10 5) (w.extractLsb' 15 17)) ∧
    (∀ rd rs : Reg,
      DecodesTo (.ldr rd rs) (fun x r => { r with rd := some rd, addr := some (readReg x rs) }) ∧
        ExecuteMoves (.ldr rd rs) ∧ AccessLoads (.ldr rd rs) ∧ WritesRd (.ldr rd rs) (fun r => r.res)) ∧
    ∀ (rd : Reg) (imm : BitVec 17),
      DecodesTo (.ldri rd imm)
          (fun x r => { r with rd := some rd, addr := some (readReg x Reg.pc + 1#32 + imm.signExtend 32) }) ∧
        ExecuteMoves (.ldri rd imm) ∧ AccessLoads (.ldri rd imm) ∧ WritesRd (.ldri rd imm) (fun r => r.res)

/-- The words with w[9:5] = 01001 and 01101 decode to STR and STRI; decode captures the value x[rv] and the address, x[rs] or x[28] + 1 + sext_17(imm17); execute only moves the record; access-memory writes the value to Mem(I.addr), adds the write's cycles and leaves every other word of Mem as it was; write-back writes no register; each answers a next state. -/
def Obligations.StoreRules : Prop :=
  WordsM 0b01001#5 (fun w => .str (w.extractLsb' 10 5) (w.extractLsb' 15 5)) ∧
    WordsM 0b01101#5 (fun w => .stri (w.extractLsb' 10 5) (w.extractLsb' 15 17)) ∧
    (∀ rv rs : Reg,
      DecodesTo (.str rv rs) (fun x r => { r with a := some (readReg x rv), addr := some (readReg x rs) }) ∧
        ExecuteMoves (.str rv rs) ∧ AccessStores (.str rv rs) (fun _ r => r.addr) ∧
        WritesRegs (.str rv rs) (fun _ => True) (fun _ x => x)) ∧
    ∀ (rv : Reg) (imm : BitVec 17),
      DecodesTo (.stri rv imm)
          (fun x r => { r with a := some (readReg x rv), addr := some (readReg x Reg.pc + 1#32 + imm.signExtend 32) }) ∧
        ExecuteMoves (.stri rv imm) ∧ AccessStores (.stri rv imm) (fun _ r => r.addr) ∧
        WritesRegs (.stri rv imm) (fun _ => True) (fun _ x => x)

/-- The words with w[9:5] = 00010 and 00110 decode to JMP and JMPI with cond = w[4:0]; decode captures the target, x[rs] or x[28] + 1 + sext_22(imm22); execute and access-memory only move the record; write-back writes x[28] with the target if the condition is 0 or equals the whole status register, and changes no register otherwise; each answers a next state. -/
def Obligations.JumpRules : Prop :=
  WordsM 0b00010#5 (fun w => .jmp (w.extractLsb' 10 5) (w.extractLsb' 0 5)) ∧
    WordsM 0b00110#5 (fun w => .jmpi (w.extractLsb' 10 22) (w.extractLsb' 0 5)) ∧
    (∀ (rs : Reg) (c : Cond),
      JumpRule (.jmp rs c) (fun x r => { r with addr := some (readReg x rs) }) (fun t x => writeReg x Reg.pc t)) ∧
    ∀ (imm : BitVec 22) (c : Cond),
      JumpRule (.jmpi imm c) (fun x r => { r with addr := some (readReg x Reg.pc + 1#32 + imm.signExtend 32) })
        (fun t x => writeReg x Reg.pc t)

/-- The words with w[9:5] = 01010 and 01110 decode to JMPS and JMPSI with cond = w[4:0]; decode captures the target; write-back, if the condition holds, writes x[31] with x[28] + 1, x[28] read in the same write-back, and then x[28] with the target, and changes no register otherwise; each operation answers a next state. -/
def Obligations.SubroutineJumpRules : Prop :=
  WordsM 0b01010#5 (fun w => .jmps (w.extractLsb' 10 5) (w.extractLsb' 0 5)) ∧
    WordsM 0b01110#5 (fun w => .jmpsi (w.extractLsb' 10 22) (w.extractLsb' 0 5)) ∧
    (∀ (rs : Reg) (c : Cond),
      JumpRule (.jmps rs c) (fun x r => { r with addr := some (readReg x rs) })
        (fun t x => writeReg (writeReg x Reg.link (readReg x Reg.pc + 1#32)) Reg.pc t)) ∧
    ∀ (imm : BitVec 22) (c : Cond),
      JumpRule (.jmpsi imm c) (fun x r => { r with addr := some (readReg x Reg.pc + 1#32 + imm.signExtend 32) })
        (fun t x => writeReg (writeReg x Reg.link (readReg x Reg.pc + 1#32)) Reg.pc t)

/-- The words with w[9:5] = 10010, 10110, 11010 decode to SIH, INT, RFI. SIH captures x[rs] at decode and writes x[27] with it. INT captures the zero-extended code, writes it to Mem(INT_CODE_ADDR) and no other word in access-memory, and in write-back saves x[28] + 1 in x[26] and loads x[28] from x[27], with every other register, the status register among them, unchanged. RFI writes x[28] with x[26] and nothing else. Each operation answers a next state. -/
def Obligations.InterruptRules : Prop :=
  WordsM 0b10010#5 (fun w => .sih (w.extractLsb' 10 5)) ∧ WordsM 0b10110#5 (fun w => .int (w.extractLsb' 10 22)) ∧
    WordsM 0b11010#5 (fun _ => .rfi) ∧
    (∀ rs : Reg,
      DecodesTo (.sih rs) (fun x r => { r with a := some (readReg x rs) }) ∧ ExecuteMoves (.sih rs) ∧
        AccessMoves (.sih rs) ∧
        ∀ (s : State) (r : InFlight) (v : Word), s.stageOp = .writeBack → s.slotM = some r → r.a = some v →
          exec (.sih rs) s = .next { s.setReg Reg.intHandler v with slotW := some r }) ∧
    (∀ imm : BitVec 22,
      DecodesTo (.int imm) (fun _ r => { r with a := some (imm.zeroExtend 32) }) ∧ ExecuteMoves (.int imm) ∧
        AccessStores (.int imm) (fun s _ => some s.config.intCodeAddr) ∧
        WritesRegs (.int imm) (fun _ => True) (fun _ x =>
          writeReg (writeReg x Reg.intLink (readReg x Reg.pc + 1#32)) Reg.pc (readReg x Reg.intHandler))) ∧
    DecodesTo .rfi (fun _ r => r) ∧ ExecuteMoves .rfi ∧ AccessMoves .rfi ∧
      WritesRegs .rfi (fun _ => True) (fun _ x => writeReg x Reg.pc (readReg x Reg.intLink))

/-- The words with itype 0 and opcode 34 decode to NOP, whatever their other bits; decode leaves the blank record, execute and access-memory only move it, write-back writes no register; each answers a next state. -/
def Obligations.NopRule : Prop :=
  (∀ w : Word, w.extractLsb' 5 2 = 0#2 → w.extractLsb' 7 6 = 34#6 → decodeWord w = .ok .nop) ∧
    DecodesTo .nop (fun _ r => r) ∧ ExecuteMoves .nop ∧ AccessMoves .nop ∧
    WritesRegs .nop (fun _ => True) (fun _ x => x)

/-- For every word that decodes to an instruction and every state in IDLE or RUNNING whose memory is in its form: unless the instruction divides by zero, its four stage operations one after another answer a next state whose register file and memory are those the instruction's rule documents, with cycle_count and what inspect() lists the only other visible changes besides the slots; if it divides by zero they end FAULTED with ArithmeticError and the word recorded, registers, Mem and the later slots as they were. -/
def Obligations.StagesReproduceTheDocumentedMutation : Prop :=
  ∀ (w : Word) (i : Instr) (s : State), decodeWord w = .ok i → s.active = true → s.chain.ok s.config = true →
    (divisor i s.regs = some 0#32 →
      ∃ t, passage i w s = .next t ∧ t.runState = .faulted ∧
        t.faultRecord = some { kind := .arithmeticError, stage := .execute, word := w, addr := 0#32 } ∧
        t.regs = s.regs ∧ t.chain = s.chain ∧ t.slotX = s.slotX ∧ t.slotM = s.slotM ∧ t.slotW = s.slotW ∧
        t.cycleCount = s.cycleCount ∧ t.stepCount = s.stepCount) ∧
    (divisor i s.regs ≠ some 0#32 →
      ∃ t, passage i w s = .next t ∧ t.regs = ruleRegs i s.regs s.mem ∧
        (∀ a, t.mem a = ruleMem i s.regs s.config.intCodeAddr s.mem a) ∧
        t.slotF = some w ∧ (∃ r, t.slotW = some r ∧ r.word = w ∧ r.op = i) ∧
        t.stepCount = s.stepCount ∧ t.runState = s.runState ∧ t.running = s.running ∧
        t.faultRecord = s.faultRecord ∧ t.config = s.config)

/-! ## Memory -/

/-- DRAM get of an address in the map answers its value and changes nothing; of an absent one, it answers 0, adds the address with value 0, and changes no word and nothing else that inspect lists. DRAM set puts the address in the map with the value and leaves every other entry. Both answer the fixed delay. -/
def Obligations.DramKeepsItsMap : Prop :=
  ∀ (delay : Nat) (d : Dram) (a v : Word), d.wf = true →
    (∀ x, (a.toNat, x) ∈ d.inspect → d.get delay a = (.wait delay x, d)) ∧
    ((∀ x, (a.toNat, x) ∉ d.inspect) →
      (d.get delay a).1 = .wait delay 0#32 ∧
        (∀ b : Word, Memory.readWord (d.get delay a).2.mem b.toNat = Memory.readWord d.mem b.toNat) ∧
        ∀ k x, (k, x) ∈ (d.get delay a).2.inspect ↔ (k, x) ∈ d.inspect ∨ (k = a.toNat ∧ x = 0#32)) ∧
    (d.set delay a v).1 = .wait delay () ∧
    ∀ k x, (k, x) ∈ (d.set delay a v).2.inspect ↔ (k ≠ a.toNat ∧ (k, x) ∈ d.inspect) ∨ (k = a.toNat ∧ x = v)

/-- If the line at the address's index is valid with the address's tag, get answers its data with the level's delay and changes nothing; set answers the level's delay, updates the line's data, marks it dirty, and leaves every other line, every lower level and DRAM as they were. -/
def Obligations.CacheHitTouchesNoLowerLevel : Prop :=
  ∀ (n : Nat) (p : CacheParams) (ps : List CacheParams) (st : Store) (sts : List Store) (d : Dram) (a v : Word) (l : Line),
    assocFind st (a.toNat % p.lineCount) = some l → l.tag = a.toNat / p.lineCount →
    chainGet n (p :: ps) (st :: sts) d a = (.wait p.delay l.data, st :: sts, d) ∧
    ∃ st', chainSet n (p :: ps) (st :: sts) d a v = (.wait p.delay (), st' :: sts, d) ∧
      ∀ j, assocFind st' j =
        if j = a.toNat % p.lineCount then some { l with data := v, dirty := true } else assocFind st j

/-- At a level: a hit costs its delay d. A set miss costs d + e, where e is the cycles of the evicting set at the next level, 0 when nothing dirty is evicted. A get miss costs d + e + g, where g is the cycles of the get at the next level after the eviction. At DRAM both cost DRAM_DELAY. With delays 1, 10 and 100 and no valid line, a get costs 111 and a set 1. -/
def Obligations.MissLatencyAddsUp : Prop :=
  ∀ (n : Nat) (p : CacheParams) (ps : List CacheParams) (st : Store) (sts : List Store) (d : Dram) (a v : Word),
    (∀ l, Store.hit p st a = some l →
      (∃ x, (chainGet n (p :: ps) (st :: sts) d a).1 = .wait p.delay x) ∧
        (chainSet n (p :: ps) (st :: sts) d a v).1 = .wait p.delay ()) ∧
    (Store.hit p st a = none →
      ∃ e sts' d' g x,
        ((∀ l, assocFind st (p.index a) = some l → l.dirty = false) → e = 0 ∧ sts' = sts ∧ d' = d) ∧
        (∀ l, assocFind st (p.index a) = some l → l.dirty = true →
          chainSet n ps sts d (p.address l.tag (p.index a)) l.data = (.wait e (), sts', d')) ∧
        (chainGet n ps sts' d' a).1 = .wait g x ∧
        (chainSet n (p :: ps) (st :: sts) d a v).1 = .wait (p.delay + e) () ∧
        (chainGet n (p :: ps) (st :: sts) d a).1 = .wait (p.delay + e + g) x) ∧
    ((∃ x, (chainGet n [] [] d a).1 = .wait n x) ∧ (chainSet n [] [] d a v).1 = .wait n ()) ∧
    ∀ k1 k2 : Nat,
      (∃ x, (chainGet 100 [⟨k1, 1⟩, ⟨k2, 10⟩] [[], []] d a).1 = .wait 111 x) ∧
        (chainSet 100 [⟨k1, 1⟩, ⟨k2, 10⟩] [[], []] d a v).1 = .wait 1 ()

/-- For every level of every legal chain in its form: get answers View and leaves View unchanged at every address; set makes View the value at its address and leaves it unchanged at every other; writing two addresses of one index and different tags leaves the first one's value in the next level's View. -/
def Obligations.ChainBehavesAsOneFlatMemory : Prop :=
  (∀ (n : Nat) (ps : List CacheParams) (sts : List Store) (d : Dram) (a v : Word),
    ps.all CacheParams.wellFormed = true → d.wf = true → storesWf ps sts = true → coherent ps sts d.mem = true →
    (∃ c sts' d', chainGet n ps sts d a = (.wait c (chainView ps sts d.mem a), sts', d') ∧
      ∀ b, chainView ps sts' d'.mem b = chainView ps sts d.mem b) ∧
    ∃ c sts' d', chainSet n ps sts d a v = (.wait c (), sts', d') ∧
      ∀ b, chainView ps sts' d'.mem b = if b = a then v else chainView ps sts d.mem b) ∧
  ∀ (n : Nat) (p : CacheParams) (ps : List CacheParams) (sts : List Store) (d : Dram) (a1 a2 v1 v2 : Word),
    (p :: ps).all CacheParams.wellFormed = true → d.wf = true → storesWf (p :: ps) sts = true →
    coherent (p :: ps) sts d.mem = true → p.index a1 = p.index a2 → p.tag a1 ≠ p.tag a2 →
    ∃ c1 sts1 d1 c2 sts2 d2, chainSet n (p :: ps) sts d a1 v1 = (.wait c1 (), sts1, d1) ∧
      chainSet n (p :: ps) sts1 d1 a2 v2 = (.wait c2 (), sts2, d2) ∧ chainView ps sts2.tail d2.mem a1 = v1

/-- Coherence of clean lines (with the chain's own form) holds right after reset of every legal instance, and every read and every write of the chain keeps it. (A DRAM word written past the chain by the host, under a valid clean line, is no write of the chain and may break it; log entry 18.) -/
def Obligations.CleanLinesStayCoherent : Prop :=
  (∀ c : Config, c.wellFormed = true → (State.resetWith c).chain.ok c = true) ∧
    ∀ (c : Config) (ch : Chain) (a v : Word), ch.ok c = true →
      (ch.memRead c a).2.ok c = true ∧ (ch.memWrite c a v).2.ok c = true

/-- In every machine that keeps its invariant, in IDLE, with every cache line invalid and no failed load before, whatever registers and DRAM words were preset: the bytes of at most 2^32 words, each word big-endian, load as those words at addresses 0, 1, 2 ..., every other word reads as before, inspect lists exactly the loaded addresses and those it listed before, nothing but DRAM changes, and no error is reported. From reset of any legal instance every other word reads 0 and inspect lists exactly the loaded addresses. An input whose length is no multiple of 4, or that cannot be read, is reported as LoadError, and the machine stays in IDLE. -/
def Obligations.ImageWordsLandAtTheirAddresses : Prop :=
  (∀ (s : State) (ws : List Word) (left : List (Word × Word)), s.Inv = true → s.runState = .idle →
    s.loadFailed = false → s.allLinesInvalid = true → ws.length ≤ 2 ^ 32 →
    ∃ t, hostLoadImage { bytes := imageOf ws, unreadable := false } left s = .next { state := t, error := none } ∧
      t = { s with chain := { s.chain with dram := t.chain.dram } } ∧
      (∀ a : Word, t.mem a = (ws[a.toNat]?).getD (s.mem a)) ∧
      ∀ k, k ∈ t.inspect.map Prod.fst ↔ k < ws.length ∨ k ∈ s.inspect.map Prod.fst) ∧
  (∀ (c : Config) (ws : List Word) (left : List (Word × Word)), c.wellFormed = true → ws.length ≤ 2 ^ 32 →
    ∃ t, hostLoadImage { bytes := imageOf ws, unreadable := false } left (State.resetWith c) =
        .next { state := t, error := none } ∧ t.runState = .idle ∧
      (∀ a : Word, t.mem a = (ws[a.toNat]?).getD 0#32) ∧ (t.inspect.map Prod.fst) = List.range ws.length) ∧
  ∀ (c : Config) (input : ImageInput) (left : List (Word × Word)),
    input.unreadable = true ∨ input.bytes.length % 4 ≠ 0 →
    ∃ t, hostLoadImage input left (State.resetWith c) = .next { state := t, error := some .loadError } ∧
      t.runState = .idle

/-- In a step of a machine that keeps its invariant, every word of Mem is unchanged unless the instruction in slot.X is STR or STRI, whose word I.a then stands at I.addr, or INT, whose code stands at INT_CODE_ADDR; this holds in aborted steps too. -/
def Obligations.MemoryChangesOnlyByStoresAndInterrupts : Prop :=
  ∀ s t : State, s.Inv = true → s.active = true → step s = .next t →
    ∀ a, t.mem a =
      match s.slotX with
      | none => s.mem a
      | some r =>
        match r.op with
        | .str _ _ => if r.addr = some a then r.a.getD 0#32 else s.mem a
        | .stri _ _ => if r.addr = some a then r.a.getD 0#32 else s.mem a
        | .int _ => if s.config.intCodeAddr = a then r.a.getD 0#32 else s.mem a
        | _ => s.mem a

/-! ## The step -/

/-- In IDLE and RUNNING, when the word in slot.F decodes to the instruction i, the step is: exec of the instruction in slot.M at write-back, of the one in slot.X at access-memory, of the one in slot.D at execute (an empty slot empties the next one), then exec i at decode, then the fetch, the increment of the program counter and the return; a fault taken in any of them ends the step. -/
def Obligations.StepRunsTheDecodedInstruction : Prop :=
  ∀ (s : State) (w : Word) (i : Instr), s.active = true → s.slotF = some w → decodeWord w = .ok i →
    step s =
      perform actWriteBack (perform actAccessMemory (perform actExecute
        (perform (fun u => exec i { u with stageOp := .decode }) (perform actFetch finishStep)))) s ∧
    (∀ r, s.slotM = some r → actWriteBack s = exec r.op { s with stageOp := .writeBack }) ∧
    (∀ r, s.slotX = some r → actAccessMemory s = exec r.op { s with stageOp := .accessMemory }) ∧
    (∀ r, s.slotD = some r → actExecute s = exec r.op { s with stageOp := .execute }) ∧
    (s.slotM = none → actWriteBack s = .next { s with slotW := none, stageOp := .writeBack }) ∧
    (s.slotX = none → actAccessMemory s = .next { s with slotM := none, stageOp := .accessMemory }) ∧
    (s.slotD = none → actExecute s = .next { s with slotX := none, stageOp := .execute })

/-- In a completed step of a machine that keeps its invariant: slot.W holds the record that was in slot.M; slot.M, slot.X and slot.D hold an instruction exactly when slot.X, slot.D and slot.F held one, with the same word and instruction, and slot.D holds what the word in slot.F decodes to; slot.F holds the word of Mem at the program counter as write-back left it, or is empty if that word is 0. -/
def Obligations.InstructionsMoveForwardOneStage : Prop :=
  ∀ s t s1 : State, s.Inv = true → s.active = true → step s = .next t → t.runState ≠ .faulted →
    actWriteBack s = .next s1 →
    t.slotW = s.slotM ∧
    t.slotM.map (fun r => (r.word, r.op)) = s.slotX.map (fun r => (r.word, r.op)) ∧
    t.slotX.map (fun r => (r.word, r.op)) = s.slotD.map (fun r => (r.word, r.op)) ∧
    t.slotD.map (fun r => r.word) = s.slotF ∧
    (∀ r, t.slotD = some r → decodeWord r.word = .ok r.op) ∧
    t.slotF = if t.mem (s1.reg Reg.pc) = 0#32 then none else some (t.mem (s1.reg Reg.pc))

/-- In a completed step, x[28] becomes, modulo 2^32, one more than the value it held after the write-back action, the value that a write-back of the same step put there included; every other register is as the write-back left it; when slot.M is empty that is its old value. -/
def Obligations.ProgramCounterAdvances : Prop :=
  ∀ s t s1 : State, s.active = true → step s = .next t → t.runState ≠ .faulted → actWriteBack s = .next s1 →
    t.reg Reg.pc = s1.reg Reg.pc + 1#32 ∧ (∀ q, q ≠ Reg.pc → t.reg q = s1.reg q) ∧
    (s.slotM = none → ∀ q, s1.reg q = s.reg q)

/-- A step from IDLE or RUNNING ends in RUNNING if a slot is filled (it returned true), in HALTED if none is (false), or in FAULTED with a fault record (it aborted); a step in HALTED or FAULTED changes nothing; reset leads from any state to IDLE with everything at its reset value; image load, failed or not, DRAM words and register presets keep IDLE. -/
def Obligations.RunStateMachine : Prop :=
  (∀ s t : State, s.active = true → step s = .next t →
    (t.runState = .running ∧ t.anySlot = true ∧ t.running = true) ∨
    (t.runState = .halted ∧ t.anySlot = false ∧ t.running = false) ∨
    (t.runState = .faulted ∧ ∃ f, t.faultRecord = some f)) ∧
  (∀ s : State, s.runState = .halted ∨ s.runState = .faulted → step s = .next s) ∧
  (∀ s : State, s.rst = State.resetWith s.config ∧ s.rst.runState = .idle) ∧
  ∀ (s t : State) (input : ImageInput) (left : List (Word × Word)) (e : Option Fault) (a v : Word) (r : Reg),
    hostLoadImage input left s = .next { state := t, error := e } ∨ hostLoadWord a v s = .next t ∨
        hostPresetReg r v s = .next t →
      s.runState = .idle ∧ t.runState = .idle

/-- A step from IDLE or RUNNING that ends FAULTED completed its write-back and access-memory actions, and then either its execute action failed, on a divide in slot.D with second operand 0, or its execute action completed and its decode action failed, on an illegal word in slot.F. The next state is the one the completed actions left, in every register, slot, memory word and counter, with only the run state FAULTED and the fault record written. -/
def Obligations.AbortKeepsWhatCompletedActionsDid : Prop :=
  (∀ s t : State, s.active = true → step s = .next t → t.runState = .faulted →
    ∃ s1 s2, actWriteBack s = .next s1 ∧ actAccessMemory s1 = .next s2 ∧
      ((∃ r, s.slotD = some r ∧ (divisor r.op s.regs).isSome = true ∧ r.b = some 0#32 ∧
          t = s2.abort (.arithmeticError r.word)) ∨
        ∃ s3 w e, actExecute s2 = .next s3 ∧ s3.runState ≠ .faulted ∧ s.slotF = some w ∧ decodeWord w = .error e ∧
          t = s3.abort (.decodeError w))) ∧
  ∀ (u : State) (f : Fault), u.abort f =
    { u with runState := .faulted, faultRecord := f.record, stageOp := .decode }

/-- In a machine that keeps its invariant, a step with an illegal word in slot.F is FAULTED with kind DecodeError, stage decode, that word and address 0, with slot.F kept and the program counter as write-back left it; but if the instruction in slot.D divides by zero, the fault recorded is its ArithmeticError in stage execute. -/
def Obligations.IllegalWordFaultsOneStepAfterItsFetch : Prop :=
  ∀ (s : State) (w : Word) (e : DecodeRefusal), s.Inv = true → s.active = true → s.slotF = some w →
    decodeWord w = .error e →
    ∃ t s1, step s = .next t ∧ actWriteBack s = .next s1 ∧ t.runState = .faulted ∧ t.slotF = some w ∧ t.regs = s1.regs ∧
      t.stepCount = s.stepCount ∧
      t.faultRecord =
        match s.slotD with
        | none => some { kind := .decodeError, stage := .decode, word := w, addr := 0#32 }
        | some r =>
          if (divisor r.op s.regs).isSome = true ∧ r.b = some 0#32 then
            some { kind := .arithmeticError, stage := .execute, word := r.word, addr := 0#32 }
          else some { kind := .decodeError, stage := .decode, word := w, addr := 0#32 }

/-- Whatever the state, a step that answers a next state with a fault record of kind MemoryError started with one. -/
def Obligations.NoMemoryErrorOccurs : Prop :=
  ∀ (s t : State) (f : FaultRecord), step s = .next t → t.faultRecord = some f → f.kind = .memoryError →
    s.faultRecord = some f

/-- In a completed step, cycle_count grows by the cycles of the memory operation of the access-memory stage, which is the read at I.addr for LDR and LDRI, the write of I.a at I.addr for STR and STRI, the write of I.a at INT_CODE_ADDR for INT, and by nothing if the instruction there is any other or there is none; plus the cycles of the fetch; step_count grows by 1. -/
def Obligations.CyclesAreThoseOfFetchAndAccess : Prop :=
  ∀ s t s1 s2 : State, s.active = true → step s = .next t → t.runState ≠ .faulted →
    actWriteBack s = .next s1 → actAccessMemory s1 = .next s2 →
    (∃ n w ch, s2.chain.memRead s.config (s1.reg Reg.pc) = (.wait n w, ch) ∧
      t.cycleCount = s2.cycleCount + BitVec.ofNat 64 n) ∧
    (match s.slotX with
      | none => s2.cycleCount = s.cycleCount
      | some r =>
        match r.op with
        | .ldr _ _ => AddsReadCycles s s2 r.addr
        | .ldri _ _ => AddsReadCycles s s2 r.addr
        | .str _ _ => AddsWriteCycles s s2 r.addr r.a
        | .stri _ _ => AddsWriteCycles s s2 r.addr r.a
        | .int _ => AddsWriteCycles s s2 (some s.config.intCodeAddr) r.a
        | _ => s2.cycleCount = s.cycleCount) ∧
    t.stepCount = s.stepCount + 1#64

/-- In IDLE or RUNNING, with slots F, D, X and M empty and memory in its form: the step completes; it ends HALTED with all slots empty if Mem(x[28]) is 0, and RUNNING with slot.F holding that word otherwise; in both cases x[28] grows by 1 and no other register and no word of Mem changes. -/
def Obligations.SentinelWithEmptyPipelineHalts : Prop :=
  ∀ s : State, s.active = true → s.chain.ok s.config = true → s.slotF = none → s.slotD = none → s.slotX = none →
    s.slotM = none →
    ∃ t, step s = .next t ∧ (∀ q, t.reg q = if q = Reg.pc then s.reg Reg.pc + 1#32 else s.reg q) ∧
      (∀ a, t.mem a = s.mem a) ∧ t.slotD = none ∧ t.slotX = none ∧ t.slotM = none ∧ t.slotW = none ∧
      if s.mem (s.reg Reg.pc) = 0#32 then t.runState = .halted ∧ t.slotF = none
      else t.runState = .running ∧ t.slotF = some (s.mem (s.reg Reg.pc))

/-- In a completed step of a machine that keeps its invariant, with any word in slot.F that decodes: the write-back turns the register file into what the instruction in slot.M, whichever it is, commits by its rule (a destination from I.res, I.a or ~I.a, the status register, x[27], the link registers, x[28]), or leaves it if slot.M is empty; and slot.D ends with what the decode operation of the word's variant builds from exactly that register file. The instructions in slot.X and slot.D, one and two ahead, have no part in it. -/
def Obligations.DecodeReadsRegistersAfterTheWriteBackOfTheSameStep : Prop :=
  ∀ (s t : State) (w : Word) (i : Instr), s.Inv = true → s.active = true → s.slotF = some w → decodeWord w = .ok i →
    step s = .next t → t.runState ≠ .faulted →
    ∃ s1 d, actWriteBack s = .next s1 ∧
      s1.regs = (match s.slotM with
        | none => s.regs
        | some m => ruleCommit m s.regs) ∧
      exec i { s with regs := s1.regs, stageOp := .decode } = .next d ∧ t.slotD = d.slotD ∧ t.slotD.isSome = true

/-- In a completed step of a machine that keeps its invariant, with a jump in slot.M that fires: the fetch reads Mem at its target, x[28] ends at the target plus 1, x[31] becomes the old x[28] plus 1 for a subroutine jump and stays otherwise, and the instructions in slot.X, slot.D and slot.F move forward. -/
def Obligations.TakenJumpFetchesItsTargetAndSquashesNothing : Prop :=
  ∀ (s t : State) (r : InFlight) (target : Word), s.Inv = true → s.active = true → s.slotM = some r →
    fieldsSet r.op = .jump → r.addr = some target → Fires r s.regs → step s = .next t → t.runState ≠ .faulted →
    t.reg Reg.pc = target + 1#32 ∧
    t.slotF = (if t.mem target = 0#32 then none else some (t.mem target)) ∧
    t.reg Reg.link =
      (match r.op with
        | .jmps _ _ => s.reg Reg.pc + 1#32
        | .jmpsi _ _ => s.reg Reg.pc + 1#32
        | _ => s.reg Reg.link) ∧
    t.slotM.map (fun q => q.word) = s.slotX.map (fun q => q.word) ∧
    t.slotX.map (fun q => q.word) = s.slotD.map (fun q => q.word) ∧ t.slotD.map (fun q => q.word) = s.slotF

/-- In a completed step of a machine that keeps its invariant: with INT in slot.M, x[26] becomes the old x[28] plus 1, the fetch reads Mem at the old x[27], and x[28] ends one past it; with RFI in slot.M, the fetch reads Mem at x[26] and x[28] ends one past it; in both cases every other register, the status register and x[31] among them, is unchanged. -/
def Obligations.InterruptEntryAndReturnInTheStep : Prop :=
  ∀ (s t : State) (r : InFlight), s.Inv = true → s.active = true → s.slotM = some r → step s = .next t →
    t.runState ≠ .faulted →
    (∀ code, r.op = .int code →
      t.reg Reg.intLink = s.reg Reg.pc + 1#32 ∧ t.reg Reg.pc = s.reg Reg.intHandler + 1#32 ∧
      t.slotF = (if t.mem (s.reg Reg.intHandler) = 0#32 then none else some (t.mem (s.reg Reg.intHandler))) ∧
      ∀ q, q ≠ Reg.intLink → q ≠ Reg.pc → t.reg q = s.reg q) ∧
    (r.op = .rfi →
      t.reg Reg.pc = s.reg Reg.intLink + 1#32 ∧
      t.slotF = (if t.mem (s.reg Reg.intLink) = 0#32 then none else some (t.mem (s.reg Reg.intLink))) ∧
      ∀ q, q ≠ Reg.pc → t.reg q = s.reg q)

/-- In a completed step of a machine that keeps its invariant, whatever is in slot.M: with STR or STRI in slot.X whose address I.addr is the program counter as the write-back left it, or INT in slot.X with INT_CODE_ADDR that program counter, slot.F ends with the stored word I.a, or empty if that word is 0. -/
def Obligations.StoreIsSeenByTheFetchOfItsStep : Prop :=
  ∀ (s t s1 : State) (r : InFlight) (v : Word), s.Inv = true → s.active = true → actWriteBack s = .next s1 →
    s.slotX = some r → r.a = some v →
    (fieldsSet r.op = .store ∧ r.addr = some (s1.reg Reg.pc)) ∨
      ((∃ code, r.op = .int code) ∧ s.config.intCodeAddr = s1.reg Reg.pc) →
    step s = .next t → t.runState ≠ .faulted → t.slotF = if v = 0#32 then none else some v

/-- From a state with an empty pipeline, when the word at x[28] = p is not 0 and decodes to a computing instruction, a move or NOT with destination other than x[28] and no zero divisor, and the next five words are 0: after four steps no register but x[28] has changed; after five, the registers are those the instruction's rule gives from the registers with x[28] = p + 1, with x[28] = p + 5; Mem is unchanged; and the sixth step ends the run with x[28] = p + 6. -/
def Obligations.LoneInstructionWritesBackInItsFifthStep : Prop :=
  ∀ (s : State) (w : Word) (i : Instr), s.active = true → s.chain.ok s.config = true →
    s.slotF = none → s.slotD = none → s.slotX = none → s.slotM = none →
    s.mem (s.reg Reg.pc) = w → w ≠ 0#32 → decodeWord w = .ok i →
    (∀ k : Nat, 1 ≤ k → k ≤ 5 → s.mem (s.reg Reg.pc + BitVec.ofNat 32 k) = 0#32) →
    (fieldsSet i = .alu ∨ fieldsSet i = .move) →
    divisor i (writeReg s.regs Reg.pc (s.reg Reg.pc + 1#32)) ≠ some 0#32 →
    destination i ≠ some Reg.pc →
    ∃ t4 t5 t6, runSteps 4 s = .next t4 ∧ step t4 = .next t5 ∧ step t5 = .next t6 ∧
      t4.regs = writeReg s.regs Reg.pc (s.reg Reg.pc + 4#32) ∧
      t5.regs =
        writeReg (ruleRegs i (writeReg s.regs Reg.pc (s.reg Reg.pc + 1#32)) s.mem) Reg.pc (s.reg Reg.pc + 5#32) ∧
      t5.runState = .running ∧ (∀ a, t5.mem a = s.mem a) ∧
      t6.runState = .halted ∧ t6.regs = writeReg t5.regs Reg.pc (s.reg Reg.pc + 6#32)

/-! ## Invariants and independence -/

/-- For every legal instance, the state after reset meets State.Inv: legal parameters, memory in canonical form and coherent, well-formed slots, a run state that fits. -/
def Obligations.ResetMeetsTheInvariant : Prop :=
  ∀ c : Config, c.wellFormed = true → (State.resetWith c).Inv = true

/-- From every state that meets State.Inv, a step that answers a next state leads to one that meets it: the instance stays legal, DRAM and the caches keep their canonical form, clean lines stay coherent, every slot holds a record of its stage with exactly the fields its variant sets and the instruction its word decodes to, the fetch slot never holds the word 0, and the run state fits the slots and the fault record. -/
def Obligations.EveryStepKeepsTheInvariant : Prop :=
  ∀ s t : State, s.Inv = true → step s = .next t → t.Inv = true

/-- From every state that meets State.Inv the step answers a next state: no field that is not set is ever read, no stage runs on an empty slot, and every Err of a stage is taken. -/
def Obligations.EveryStepAnswersANextState : Prop :=
  ∀ s : State, s.Inv = true → ∃ t, step s = .next t

/-- Two machines that keep their invariants and agree on registers, slots, run state, outputs, step_count, INT_CODE_ADDR and every word of Mem, whatever their cache levels, line counts, delays, cache contents and cycle_count, step to two machines that again agree on all of that. -/
def Obligations.CachesAndDelaysAreInvisible : Prop :=
  ∀ s s' : State, s.Inv = true → s'.Inv = true → sameButTiming s s' →
    ∃ t t', step s = .next t ∧ step s' = .next t' ∧ sameButTiming t t'

/-! ## The host -/

/-- In IDLE a register preset writes that register and nothing else, and a DRAM word write puts the word in dram.map and changes nothing else, whatever the cache lines hold. In IDLE with every cache line invalid and no failed load before, an image of whole words, readable and of at most 2^32 words, is taken without an error and changes nothing but DRAM (which words it leaves is O31). In IDLE after a failed load, and with a valid cache line, an image load is refused by name: the model's choice (log entry 13, read from R243, and log entry 18, read from R76). Outside IDLE all three are refused by name, the treatment U17 allows. -/
def Obligations.HostPresetsInIdleOnly : Prop :=
  ∀ (s : State) (r : Reg) (a v : Word) (input : ImageInput) (left : List (Word × Word)),
    (s.runState = .idle →
      hostPresetReg r v s = .next (s.setReg r v) ∧
      hostLoadWord a v s = .next { s with chain := { s.chain with dram := (Dram.set 0 s.chain.dram a v).2 } } ∧
      (s.loadFailed = false → s.allLinesInvalid = true → input.unreadable = false → input.bytes.length % 4 = 0 →
        input.bytes.length ≤ 4 * 2 ^ 32 →
        ∃ d, hostLoadImage input left s =
          .next { state := { s with chain := { s.chain with dram := d } }, error := none }) ∧
      (s.loadFailed = true → hostLoadImage input left s = .refused .loadBeforeReset) ∧
      (s.loadFailed = false → s.allLinesInvalid = false → hostLoadImage input left s = .refused .loadOverValidLine)) ∧
    (s.runState ≠ .idle →
      hostPresetReg r v s = .refused .hostActionOutsideIdle ∧ hostLoadWord a v s = .refused .hostActionOutsideIdle ∧
        hostLoadImage input left s = .refused .hostActionOutsideIdle)

/-- After a DecodeError the ports show fault 1, kind 1, stage 4, the word, address 0; after an ArithmeticError fault 1, kind 3, stage 3, the word, address 0; after a MemoryError of the access-memory stage fault 1, kind 2, stage 2, the word, the address; after a MemoryError of the fetch fault 1, kind 2, stage 5, word 0, the address; without a fault record the four fault ports read 0. -/
def Obligations.PortsShowTheFault : Prop :=
  ∀ (s : State) (w a : Word),
    FaultPorts (s.abort (.decodeError w)) 1 4 w 0#32 ∧ FaultPorts (s.abort (.arithmeticError w)) 3 3 w 0#32 ∧
    FaultPorts (s.abort (.memoryError .accessMemory w a)) 2 2 w a ∧
    FaultPorts (s.abort (.memoryError .fetch 0#32 a)) 2 5 0#32 a ∧
    (s.faultRecord = none →
      s.ports.faultKind = 0 ∧ s.ports.faultStage = 0 ∧ s.ports.faultWord = 0 ∧ s.ports.faultAddr = 0)

/-- With memory in its form, the host's get answers Mem(a) and changes no word of Mem, its set makes Mem(a) the value and changes no other word, memory stays in its form, and neither changes a register, a slot, cycle_count or step_count. (That this holds in HALTED and FAULTED too is the model's choice, log entry 21.) -/
def Obligations.HostGetAndSetUseTheChainBetweenSteps : Prop :=
  ∀ (s : State) (a v : Word), s.chain.ok s.config = true →
    (∃ n t, hostGet a s = (.wait n (s.mem a), t) ∧ (∀ b, t.mem b = s.mem b) ∧ t.chain.ok t.config = true ∧
      t = { s with chain := t.chain }) ∧
    ∃ n t, hostSet a v s = (.wait n (), t) ∧ (∀ b, t.mem b = if b = a then v else s.mem b) ∧
      t.chain.ok t.config = true ∧ t = { s with chain := t.chain }

/-- For every machine that keeps its invariant, in IDLE with every cache line invalid and no failed load before it, and every input that is unreadable or of malformed length: the load reports LoadError and answers a machine that keeps the invariant, in IDLE, that differs from the old one in DRAM only, at addresses below the number of whole words read; each of those words can have any value; a second image load is refused, and reset clears the mark loadFailed that refuses it. (That the values are a free argument, and that the second image load is refused, is log entry 13.) -/
def Obligations.FailedLoadLeavesAnyWordsUntilReset : Prop :=
  ∀ (s : State) (input : ImageInput), s.Inv = true → s.runState = .idle → s.loadFailed = false →
    s.allLinesInvalid = true → input.unreadable = true ∨ input.bytes.length % 4 ≠ 0 →
    (∀ left, ∃ t, hostLoadImage input left s = .next { state := t, error := some .loadError } ∧ t.Inv = true ∧
      t = { s with chain := { s.chain with dram := t.chain.dram }, loadFailed := true } ∧
      (∀ a : Word, input.bytes.length / 4 ≤ a.toNat → t.mem a = s.mem a) ∧
      (∀ input' left', hostLoadImage input' left' t = .refused .loadBeforeReset) ∧ t.rst.loadFailed = false) ∧
    ∀ a v : Word, a.toNat < input.bytes.length / 4 →
      ∃ left t, hostLoadImage input left s = .next { state := t, error := some .loadError } ∧ t.mem a = v

/-- From every state that meets State.Inv: an image load, failed or not, and a register preset that are taken, the host's get and set, a DRAM word write that is taken while every cache line is invalid, and a clock edge lead to a state that meets it. The clock edge may have any inputs; if its load port is used without reset, every cache line is invalid, and a step at the same edge comes after the load or there is no cache. So a machine with a program loaded meets the invariant. (That get and set act in every run state, HALTED and FAULTED included, is the model's choice, log entry 21; that a step and a load at one edge both act, in a free order, is log entry 15; that reset wins at an edge is log entry 19; which image loads are taken, and what a failed one leaves, is log entries 18 and 13. A DRAM word written under a valid clean line would leave it stale: R222 allows the write, R68 does not then hold; log entry 18.) -/
def Obligations.HostActionsKeepTheInvariant : Prop :=
  ∀ s : State, s.Inv = true →
    (∀ input left t e, hostLoadImage input left s = .next { state := t, error := e } → t.Inv = true) ∧
    (∀ a v t, s.allLinesInvalid = true → hostLoadWord a v s = .next t → t.Inv = true) ∧
    (∀ r v t, hostPresetReg r v s = .next t → t.Inv = true) ∧
    (∀ a, (hostGet a s).2.Inv = true) ∧ (∀ a v, (hostSet a v s).2.Inv = true) ∧
    ∀ loadFirst p t,
      (p.rst = false → p.ldValid = true →
        s.allLinesInvalid = true ∧ (p.stepEn = true → loadFirst = true ∨ s.config.levels = [])) →
      clockEdge loadFirst p s = .next t → t.Inv = true

/-- With rst, the edge leaves the machine after reset, whatever else is asked (log entry 19). Without it: step_en alone makes one step, which changes nothing in HALTED and FAULTED; ld_valid alone is the load port's write; no request changes nothing. Both at once: in IDLE both have their effect, the step on the state the load left or the load on the state the step left (no rule orders them; that the order is a free value is log entry 15); outside IDLE the load is no host interaction and the edge is refused by name (U17). -/
def Obligations.ClockEdgeTakesTheRequest : Prop :=
  ∀ (loadFirst : Bool) (p : PortIn) (s : State),
    (p.rst = true → clockEdge loadFirst p s = .next (State.resetWith s.config)) ∧
    (p.rst = false → p.stepEn = true → p.ldValid = false →
      clockEdge loadFirst p s = step s ∧
        (s.runState = .halted ∨ s.runState = .faulted → clockEdge loadFirst p s = .next s)) ∧
    (p.rst = false → p.stepEn = false → p.ldValid = true →
      clockEdge loadFirst p s = hostLoadWord p.ldAddr p.ldData s) ∧
    (p.rst = false → p.stepEn = false → p.ldValid = false → clockEdge loadFirst p s = .next s) ∧
    (p.rst = false → p.stepEn = true → p.ldValid = true →
      (s.runState = .idle →
        (loadFirst = true →
          ∃ u, hostLoadWord p.ldAddr p.ldData s = .next u ∧ clockEdge loadFirst p s = step u) ∧
        (loadFirst = false → ∀ t, step s = .next t →
          clockEdge loadFirst p s =
            .next { t with chain := { t.chain with dram := (Dram.set 0 t.chain.dram p.ldAddr p.ldData).2 } })) ∧
      (s.runState ≠ .idle → clockEdge loadFirst p s = .refused .hostActionOutsideIdle))

/-- After a completed step: running is whether a slot is filled, halted its opposite, fault 0, step_count one more. After an aborted step: fault is 1, halted 0, step_count as before, and running as before (no step returned since; log entry 14). halted is 1 exactly in HALTED and fault exactly in FAULTED; cycle_count and step_count show the counters. After reset all five are 0. -/
def Obligations.PortsShowTheRun : Prop :=
  (∀ s t : State, s.active = true → step s = .next t →
    (t.runState ≠ .faulted →
      t.ports.running = t.anySlot ∧ t.ports.halted = !t.anySlot ∧ t.ports.fault = false ∧
        t.ports.stepCount = s.ports.stepCount + 1#64) ∧
    (t.runState = .faulted →
      t.ports.running = s.ports.running ∧ t.ports.halted = false ∧ t.ports.fault = true ∧
        t.ports.stepCount = s.ports.stepCount)) ∧
  (∀ s : State, (s.ports.halted = true ↔ s.runState = .halted) ∧ (s.ports.fault = true ↔ s.runState = .faulted) ∧
    s.ports.cycleCount = s.cycleCount ∧ s.ports.stepCount = s.stepCount) ∧
  ∀ c : Config, (State.resetWith c).ports.running = false ∧ (State.resetWith c).ports.halted = false ∧
    (State.resetWith c).ports.fault = false ∧ (State.resetWith c).ports.cycleCount = 0 ∧
    (State.resetWith c).ports.stepCount = 0
end

