-- ==== Sys2Proof/Laws/Word.lean ====
section
/-!
SUPPORT. Sys2Proof/Laws/Word.lean: bit strings joined and cut, as numbers.
-/

namespace Sys2Proof

/-- A concatenation as a number. -/
theorem toNat_append_eq {m n : Nat} (x : BitVec m) (y : BitVec n) : (x ++ y).toNat = x.toNat * 2 ^ n + y.toNat := by
  rw [BitVec.toNat_append, ← Nat.shiftLeft_add_eq_or_of_lt y.isLt, Nat.shiftLeft_eq]

/-- A bit field as a number. -/
theorem toNat_extract_eq {n : Nat} (w : BitVec n) (lo len : Nat) :
    (w.extractLsb' lo len).toNat = w.toNat / 2 ^ lo % 2 ^ len := by
  rw [BitVec.extractLsb'_toNat, Nat.shiftRight_eq_div_pow]

/-- Cutting out the low part of a concatenation. -/
theorem extract_append_low {m n len : Nat} (x : BitVec m) (y : BitVec n) (lo : Nat) (h : lo + len ≤ n) :
    (x ++ y).extractLsb' lo len = y.extractLsb' lo len := by
  ext i hi
  simp only [BitVec.getElem_extractLsb', BitVec.getLsbD_append]
  rw [if_pos (by omega)]

/-- Cutting out of the high part of a concatenation. -/
theorem extract_append_high {m n len : Nat} (x : BitVec m) (y : BitVec n) (lo : Nat) (h : n ≤ lo) :
    (x ++ y).extractLsb' lo len = x.extractLsb' (lo - n) len := by
  ext i hi
  simp only [BitVec.getElem_extractLsb', BitVec.getLsbD_append]
  rw [if_neg (by omega)]
  congr 1
  omega

/-- Cutting out the whole low part. -/
theorem extract_append_low_all {m n : Nat} (x : BitVec m) (y : BitVec n) : (x ++ y).extractLsb' 0 n = y := by
  rw [extract_append_low x y 0 (by omega)]
  ext i hi
  simp

/-- Cutting out a whole string. -/
theorem extract_all {n : Nat} (x : BitVec n) : x.extractLsb' 0 n = x := by
  ext i hi
  simp

end Sys2Proof
end

