-- ==== Sys2Proof/Laws/Decode.lean ====
section
/-!
SUPPORT. Sys2Proof/Laws/Decode.lean: what each field of an encoded word is, format by format (30_encoding.md R94 to R96).
-/

namespace Sys2Proof

@[simp] theorem itypeField_encodeA3R (op : BitVec 6) (rd rs1 rs2 : Reg) : itypeField (encodeA3R op rd rs1 rs2) = 0#2 := by
  apply BitVec.eq_of_toNat_eq
  simp only [itypeField, encodeA3R, toNat_append_eq, toNat_extract_eq, BitVec.toNat_ofNat]
  have hop := op.isLt
  have hrd := rd.isLt
  have hrs1 := rs1.isLt
  have hrs2 := rs2.isLt
  omega

@[simp] theorem opcode6_encodeA3R (op : BitVec 6) (rd rs1 rs2 : Reg) : opcode6 (encodeA3R op rd rs1 rs2) = op := by
  apply BitVec.eq_of_toNat_eq
  simp only [opcode6, encodeA3R, toNat_append_eq, toNat_extract_eq, BitVec.toNat_ofNat]
  have hop := op.isLt
  have hrd := rd.isLt
  have hrs1 := rs1.isLt
  have hrs2 := rs2.isLt
  omega

@[simp] theorem aluField1_encodeA3R (op : BitVec 6) (rd rs1 rs2 : Reg) : aluField1 (encodeA3R op rd rs1 rs2) = rd := by
  apply BitVec.eq_of_toNat_eq
  simp only [aluField1, encodeA3R, toNat_append_eq, toNat_extract_eq, BitVec.toNat_ofNat]
  have hop := op.isLt
  have hrd := rd.isLt
  have hrs1 := rs1.isLt
  have hrs2 := rs2.isLt
  omega

@[simp] theorem aluField2_encodeA3R (op : BitVec 6) (rd rs1 rs2 : Reg) : aluField2 (encodeA3R op rd rs1 rs2) = rs1 := by
  apply BitVec.eq_of_toNat_eq
  simp only [aluField2, encodeA3R, toNat_append_eq, toNat_extract_eq, BitVec.toNat_ofNat]
  have hop := op.isLt
  have hrd := rd.isLt
  have hrs1 := rs1.isLt
  have hrs2 := rs2.isLt
  omega

@[simp] theorem aluField3_encodeA3R (op : BitVec 6) (rd rs1 rs2 : Reg) : aluField3 (encodeA3R op rd rs1 rs2) = rs2 := by
  apply BitVec.eq_of_toNat_eq
  simp only [aluField3, encodeA3R, toNat_append_eq, toNat_extract_eq, BitVec.toNat_ofNat]
  have hop := op.isLt
  have hrd := rd.isLt
  have hrs1 := rs1.isLt
  have hrs2 := rs2.isLt
  omega

@[simp] theorem itypeField_encodeA3I (op : BitVec 6) (rd rs1 : Reg) (imm : BitVec 9) : itypeField (encodeA3I op rd rs1 imm) = 0#2 := by
  apply BitVec.eq_of_toNat_eq
  simp only [itypeField, encodeA3I, toNat_append_eq, toNat_extract_eq, BitVec.toNat_ofNat]
  have hop := op.isLt
  have hrd := rd.isLt
  have hrs1 := rs1.isLt
  have himm := imm.isLt
  omega

@[simp] theorem opcode6_encodeA3I (op : BitVec 6) (rd rs1 : Reg) (imm : BitVec 9) : opcode6 (encodeA3I op rd rs1 imm) = op := by
  apply BitVec.eq_of_toNat_eq
  simp only [opcode6, encodeA3I, toNat_append_eq, toNat_extract_eq, BitVec.toNat_ofNat]
  have hop := op.isLt
  have hrd := rd.isLt
  have hrs1 := rs1.isLt
  have himm := imm.isLt
  omega

@[simp] theorem aluField1_encodeA3I (op : BitVec 6) (rd rs1 : Reg) (imm : BitVec 9) : aluField1 (encodeA3I op rd rs1 imm) = rd := by
  apply BitVec.eq_of_toNat_eq
  simp only [aluField1, encodeA3I, toNat_append_eq, toNat_extract_eq, BitVec.toNat_ofNat]
  have hop := op.isLt
  have hrd := rd.isLt
  have hrs1 := rs1.isLt
  have himm := imm.isLt
  omega

@[simp] theorem aluField2_encodeA3I (op : BitVec 6) (rd rs1 : Reg) (imm : BitVec 9) : aluField2 (encodeA3I op rd rs1 imm) = rs1 := by
  apply BitVec.eq_of_toNat_eq
  simp only [aluField2, encodeA3I, toNat_append_eq, toNat_extract_eq, BitVec.toNat_ofNat]
  have hop := op.isLt
  have hrd := rd.isLt
  have hrs1 := rs1.isLt
  have himm := imm.isLt
  omega

@[simp] theorem imm9Field_encodeA3I (op : BitVec 6) (rd rs1 : Reg) (imm : BitVec 9) : imm9Field (encodeA3I op rd rs1 imm) = imm := by
  apply BitVec.eq_of_toNat_eq
  simp only [imm9Field, encodeA3I, toNat_append_eq, toNat_extract_eq, BitVec.toNat_ofNat]
  have hop := op.isLt
  have hrd := rd.isLt
  have hrs1 := rs1.isLt
  have himm := imm.isLt
  omega

@[simp] theorem itypeField_encodeA2R (op : BitVec 6) (f1 f2 : Reg) : itypeField (encodeA2R op f1 f2) = 0#2 := by
  apply BitVec.eq_of_toNat_eq
  simp only [itypeField, encodeA2R, toNat_append_eq, toNat_extract_eq, BitVec.toNat_ofNat]
  have hop := op.isLt
  have hf1 := f1.isLt
  have hf2 := f2.isLt
  omega

@[simp] theorem opcode6_encodeA2R (op : BitVec 6) (f1 f2 : Reg) : opcode6 (encodeA2R op f1 f2) = op := by
  apply BitVec.eq_of_toNat_eq
  simp only [opcode6, encodeA2R, toNat_append_eq, toNat_extract_eq, BitVec.toNat_ofNat]
  have hop := op.isLt
  have hf1 := f1.isLt
  have hf2 := f2.isLt
  omega

@[simp] theorem aluField1_encodeA2R (op : BitVec 6) (f1 f2 : Reg) : aluField1 (encodeA2R op f1 f2) = f1 := by
  apply BitVec.eq_of_toNat_eq
  simp only [aluField1, encodeA2R, toNat_append_eq, toNat_extract_eq, BitVec.toNat_ofNat]
  have hop := op.isLt
  have hf1 := f1.isLt
  have hf2 := f2.isLt
  omega

@[simp] theorem aluField2_encodeA2R (op : BitVec 6) (f1 f2 : Reg) : aluField2 (encodeA2R op f1 f2) = f2 := by
  apply BitVec.eq_of_toNat_eq
  simp only [aluField2, encodeA2R, toNat_append_eq, toNat_extract_eq, BitVec.toNat_ofNat]
  have hop := op.isLt
  have hf1 := f1.isLt
  have hf2 := f2.isLt
  omega

@[simp] theorem itypeField_encodeA2I (op : BitVec 6) (rd : Reg) (imm : BitVec 14) : itypeField (encodeA2I op rd imm) = 0#2 := by
  apply BitVec.eq_of_toNat_eq
  simp only [itypeField, encodeA2I, toNat_append_eq, toNat_extract_eq, BitVec.toNat_ofNat]
  have hop := op.isLt
  have hrd := rd.isLt
  have himm := imm.isLt
  omega

@[simp] theorem opcode6_encodeA2I (op : BitVec 6) (rd : Reg) (imm : BitVec 14) : opcode6 (encodeA2I op rd imm) = op := by
  apply BitVec.eq_of_toNat_eq
  simp only [opcode6, encodeA2I, toNat_append_eq, toNat_extract_eq, BitVec.toNat_ofNat]
  have hop := op.isLt
  have hrd := rd.isLt
  have himm := imm.isLt
  omega

@[simp] theorem aluField1_encodeA2I (op : BitVec 6) (rd : Reg) (imm : BitVec 14) : aluField1 (encodeA2I op rd imm) = rd := by
  apply BitVec.eq_of_toNat_eq
  simp only [aluField1, encodeA2I, toNat_append_eq, toNat_extract_eq, BitVec.toNat_ofNat]
  have hop := op.isLt
  have hrd := rd.isLt
  have himm := imm.isLt
  omega

@[simp] theorem imm14Field_encodeA2I (op : BitVec 6) (rd : Reg) (imm : BitVec 14) : imm14Field (encodeA2I op rd imm) = imm := by
  apply BitVec.eq_of_toNat_eq
  simp only [imm14Field, encodeA2I, toNat_append_eq, toNat_extract_eq, BitVec.toNat_ofNat]
  have hop := op.isLt
  have hrd := rd.isLt
  have himm := imm.isLt
  omega

@[simp] theorem itypeField_encodeA0 (op : BitVec 6) : itypeField (encodeA0 op) = 0#2 := by
  apply BitVec.eq_of_toNat_eq
  simp only [itypeField, encodeA0, toNat_append_eq, toNat_extract_eq, BitVec.toNat_ofNat]
  have hop := op.isLt
  omega

@[simp] theorem opcode6_encodeA0 (op : BitVec 6) : opcode6 (encodeA0 op) = op := by
  apply BitVec.eq_of_toNat_eq
  simp only [opcode6, encodeA0, toNat_append_eq, toNat_extract_eq, BitVec.toNat_ofNat]
  have hop := op.isLt
  omega

@[simp] theorem itypeField_encodeM2R (op : BitVec 3) (f1 rs : Reg) : itypeField (encodeM2R op f1 rs) = 1#2 := by
  apply BitVec.eq_of_toNat_eq
  simp only [itypeField, encodeM2R, toNat_append_eq, toNat_extract_eq, BitVec.toNat_ofNat]
  have hop := op.isLt
  have hf1 := f1.isLt
  have hrs := rs.isLt
  omega

@[simp] theorem opcode3_encodeM2R (op : BitVec 3) (f1 rs : Reg) : opcode3 (encodeM2R op f1 rs) = op := by
  apply BitVec.eq_of_toNat_eq
  simp only [opcode3, encodeM2R, toNat_append_eq, toNat_extract_eq, BitVec.toNat_ofNat]
  have hop := op.isLt
  have hf1 := f1.isLt
  have hrs := rs.isLt
  omega

@[simp] theorem memField1_encodeM2R (op : BitVec 3) (f1 rs : Reg) : memField1 (encodeM2R op f1 rs) = f1 := by
  apply BitVec.eq_of_toNat_eq
  simp only [memField1, encodeM2R, toNat_append_eq, toNat_extract_eq, BitVec.toNat_ofNat]
  have hop := op.isLt
  have hf1 := f1.isLt
  have hrs := rs.isLt
  omega

@[simp] theorem memField2_encodeM2R (op : BitVec 3) (f1 rs : Reg) : memField2 (encodeM2R op f1 rs) = rs := by
  apply BitVec.eq_of_toNat_eq
  simp only [memField2, encodeM2R, toNat_append_eq, toNat_extract_eq, BitVec.toNat_ofNat]
  have hop := op.isLt
  have hf1 := f1.isLt
  have hrs := rs.isLt
  omega

@[simp] theorem itypeField_encodeM2I (op : BitVec 3) (f1 : Reg) (imm : BitVec 17) : itypeField (encodeM2I op f1 imm) = 1#2 := by
  apply BitVec.eq_of_toNat_eq
  simp only [itypeField, encodeM2I, toNat_append_eq, toNat_extract_eq, BitVec.toNat_ofNat]
  have hop := op.isLt
  have hf1 := f1.isLt
  have himm := imm.isLt
  omega

@[simp] theorem opcode3_encodeM2I (op : BitVec 3) (f1 : Reg) (imm : BitVec 17) : opcode3 (encodeM2I op f1 imm) = op := by
  apply BitVec.eq_of_toNat_eq
  simp only [opcode3, encodeM2I, toNat_append_eq, toNat_extract_eq, BitVec.toNat_ofNat]
  have hop := op.isLt
  have hf1 := f1.isLt
  have himm := imm.isLt
  omega

@[simp] theorem memField1_encodeM2I (op : BitVec 3) (f1 : Reg) (imm : BitVec 17) : memField1 (encodeM2I op f1 imm) = f1 := by
  apply BitVec.eq_of_toNat_eq
  simp only [memField1, encodeM2I, toNat_append_eq, toNat_extract_eq, BitVec.toNat_ofNat]
  have hop := op.isLt
  have hf1 := f1.isLt
  have himm := imm.isLt
  omega

@[simp] theorem imm17Field_encodeM2I (op : BitVec 3) (f1 : Reg) (imm : BitVec 17) : imm17Field (encodeM2I op f1 imm) = imm := by
  apply BitVec.eq_of_toNat_eq
  simp only [imm17Field, encodeM2I, toNat_append_eq, toNat_extract_eq, BitVec.toNat_ofNat]
  have hop := op.isLt
  have hf1 := f1.isLt
  have himm := imm.isLt
  omega

@[simp] theorem itypeField_encodeC1R (op : BitVec 3) (rs : Reg) (cond : Cond) : itypeField (encodeC1R op rs cond) = 2#2 := by
  apply BitVec.eq_of_toNat_eq
  simp only [itypeField, encodeC1R, toNat_append_eq, toNat_extract_eq, BitVec.toNat_ofNat]
  have hop := op.isLt
  have hrs := rs.isLt
  have hcond := cond.isLt
  omega

@[simp] theorem opcode3_encodeC1R (op : BitVec 3) (rs : Reg) (cond : Cond) : opcode3 (encodeC1R op rs cond) = op := by
  apply BitVec.eq_of_toNat_eq
  simp only [opcode3, encodeC1R, toNat_append_eq, toNat_extract_eq, BitVec.toNat_ofNat]
  have hop := op.isLt
  have hrs := rs.isLt
  have hcond := cond.isLt
  omega

@[simp] theorem memField1_encodeC1R (op : BitVec 3) (rs : Reg) (cond : Cond) : memField1 (encodeC1R op rs cond) = rs := by
  apply BitVec.eq_of_toNat_eq
  simp only [memField1, encodeC1R, toNat_append_eq, toNat_extract_eq, BitVec.toNat_ofNat]
  have hop := op.isLt
  have hrs := rs.isLt
  have hcond := cond.isLt
  omega

@[simp] theorem condField_encodeC1R (op : BitVec 3) (rs : Reg) (cond : Cond) : condField (encodeC1R op rs cond) = cond := by
  apply BitVec.eq_of_toNat_eq
  simp only [condField, encodeC1R, toNat_append_eq, toNat_extract_eq, BitVec.toNat_ofNat]
  have hop := op.isLt
  have hrs := rs.isLt
  have hcond := cond.isLt
  omega

@[simp] theorem itypeField_encodeC1I (op : BitVec 3) (imm : BitVec 22) (cond : Cond) : itypeField (encodeC1I op imm cond) = 2#2 := by
  apply BitVec.eq_of_toNat_eq
  simp only [itypeField, encodeC1I, toNat_append_eq, toNat_extract_eq, BitVec.toNat_ofNat]
  have hop := op.isLt
  have himm := imm.isLt
  have hcond := cond.isLt
  omega

@[simp] theorem opcode3_encodeC1I (op : BitVec 3) (imm : BitVec 22) (cond : Cond) : opcode3 (encodeC1I op imm cond) = op := by
  apply BitVec.eq_of_toNat_eq
  simp only [opcode3, encodeC1I, toNat_append_eq, toNat_extract_eq, BitVec.toNat_ofNat]
  have hop := op.isLt
  have himm := imm.isLt
  have hcond := cond.isLt
  omega

@[simp] theorem imm22Field_encodeC1I (op : BitVec 3) (imm : BitVec 22) (cond : Cond) : imm22Field (encodeC1I op imm cond) = imm := by
  apply BitVec.eq_of_toNat_eq
  simp only [imm22Field, encodeC1I, toNat_append_eq, toNat_extract_eq, BitVec.toNat_ofNat]
  have hop := op.isLt
  have himm := imm.isLt
  have hcond := cond.isLt
  omega

@[simp] theorem condField_encodeC1I (op : BitVec 3) (imm : BitVec 22) (cond : Cond) : condField (encodeC1I op imm cond) = cond := by
  apply BitVec.eq_of_toNat_eq
  simp only [condField, encodeC1I, toNat_append_eq, toNat_extract_eq, BitVec.toNat_ofNat]
  have hop := op.isLt
  have himm := imm.isLt
  have hcond := cond.isLt
  omega

@[simp] theorem itypeField_encodeC0 (op : BitVec 3) : itypeField (encodeC0 op) = 2#2 := by
  apply BitVec.eq_of_toNat_eq
  simp only [itypeField, encodeC0, toNat_append_eq, toNat_extract_eq, BitVec.toNat_ofNat]
  have hop := op.isLt
  omega

@[simp] theorem opcode3_encodeC0 (op : BitVec 3) : opcode3 (encodeC0 op) = op := by
  apply BitVec.eq_of_toNat_eq
  simp only [opcode3, encodeC0, toNat_append_eq, toNat_extract_eq, BitVec.toNat_ofNat]
  have hop := op.isLt
  omega

end Sys2Proof
end

