-- ==== Sys2Proof/Laws/State.lean ====
section
/-!
SUPPORT. Sys2Proof/Laws/State.lean: one lemma per field per update of the state, and the register file's read and write
laws.
-/

namespace Sys2Proof.Machine

/-! ## The register file -/

theorem readReg_writeReg (x : Regs) (r q : Reg) (v : Word) :
    readReg (writeReg x r v) q = if q = r then v else readReg x q := by
  unfold readReg writeReg
  by_cases h : q = r
  · subst h
    simp
  · have h' : r.toNat ≠ q.toNat := fun e => h (BitVec.eq_of_toNat_eq e.symm)
    simp only [if_neg h]
    exact Vector.getElem_set_ne r.isLt q.isLt h'

@[simp] theorem readReg_writeReg_same (x : Regs) (r : Reg) (v : Word) : readReg (writeReg x r v) r = v := by
  rw [readReg_writeReg, if_pos rfl]

theorem readReg_writeReg_other (x : Regs) {r q : Reg} (v : Word) (h : q ≠ r) :
    readReg (writeReg x r v) q = readReg x q := by
  rw [readReg_writeReg, if_neg h]

/-- Register files that read alike are equal. -/
theorem regs_ext {x y : Regs} (h : ∀ r : Reg, readReg x r = readReg y r) : x = y := by
  refine Vector.ext fun i hi => ?_
  have := h (BitVec.ofFin ⟨i, hi⟩)
  simpa [readReg] using this

theorem writeReg_writeReg_same (x : Regs) (r : Reg) (v w : Word) : writeReg (writeReg x r v) r w = writeReg x r w :=
  regs_ext fun q => by
    simp only [readReg_writeReg]
    split <;> rfl

theorem writeReg_comm (x : Regs) {r q : Reg} (v w : Word) (h : r ≠ q) :
    writeReg (writeReg x r v) q w = writeReg (writeReg x q w) r v :=
  regs_ext fun p => by
    simp only [readReg_writeReg]
    by_cases h1 : p = q <;> by_cases h2 : p = r <;> simp_all

@[simp] theorem readReg_replicate (r : Reg) (v : Word) : readReg (Vector.replicate 32 v) r = v := by
  simp [readReg]

/-! ## One lemma per field per update -/

@[simp] theorem State.setReg_regs (s : State) (r : Reg) (v : Word) : (s.setReg r v).regs = writeReg s.regs r v := rfl
@[simp] theorem State.setReg_slotF (s : State) (r : Reg) (v : Word) : (s.setReg r v).slotF = s.slotF := rfl
@[simp] theorem State.setReg_slotD (s : State) (r : Reg) (v : Word) : (s.setReg r v).slotD = s.slotD := rfl
@[simp] theorem State.setReg_slotX (s : State) (r : Reg) (v : Word) : (s.setReg r v).slotX = s.slotX := rfl
@[simp] theorem State.setReg_slotM (s : State) (r : Reg) (v : Word) : (s.setReg r v).slotM = s.slotM := rfl
@[simp] theorem State.setReg_slotW (s : State) (r : Reg) (v : Word) : (s.setReg r v).slotW = s.slotW := rfl
@[simp] theorem State.setReg_chain (s : State) (r : Reg) (v : Word) : (s.setReg r v).chain = s.chain := rfl
@[simp] theorem State.setReg_cycleCount (s : State) (r : Reg) (v : Word) : (s.setReg r v).cycleCount = s.cycleCount := rfl
@[simp] theorem State.setReg_stepCount (s : State) (r : Reg) (v : Word) : (s.setReg r v).stepCount = s.stepCount := rfl
@[simp] theorem State.setReg_runState (s : State) (r : Reg) (v : Word) : (s.setReg r v).runState = s.runState := rfl
@[simp] theorem State.setReg_running (s : State) (r : Reg) (v : Word) : (s.setReg r v).running = s.running := rfl
@[simp] theorem State.setReg_faultRecord (s : State) (r : Reg) (v : Word) : (s.setReg r v).faultRecord = s.faultRecord := rfl
@[simp] theorem State.setReg_loadFailed (s : State) (r : Reg) (v : Word) : (s.setReg r v).loadFailed = s.loadFailed := rfl
@[simp] theorem State.setReg_config (s : State) (r : Reg) (v : Word) : (s.setReg r v).config = s.config := rfl
@[simp] theorem State.setReg_stageOp (s : State) (r : Reg) (v : Word) : (s.setReg r v).stageOp = s.stageOp := rfl

@[simp] theorem State.abort_regs (s : State) (f : Fault) : (s.abort f).regs = s.regs := rfl
@[simp] theorem State.abort_slotF (s : State) (f : Fault) : (s.abort f).slotF = s.slotF := rfl
@[simp] theorem State.abort_slotD (s : State) (f : Fault) : (s.abort f).slotD = s.slotD := rfl
@[simp] theorem State.abort_slotX (s : State) (f : Fault) : (s.abort f).slotX = s.slotX := rfl
@[simp] theorem State.abort_slotM (s : State) (f : Fault) : (s.abort f).slotM = s.slotM := rfl
@[simp] theorem State.abort_slotW (s : State) (f : Fault) : (s.abort f).slotW = s.slotW := rfl
@[simp] theorem State.abort_chain (s : State) (f : Fault) : (s.abort f).chain = s.chain := rfl
@[simp] theorem State.abort_cycleCount (s : State) (f : Fault) : (s.abort f).cycleCount = s.cycleCount := rfl
@[simp] theorem State.abort_stepCount (s : State) (f : Fault) : (s.abort f).stepCount = s.stepCount := rfl
@[simp] theorem State.abort_runState (s : State) (f : Fault) : (s.abort f).runState = .faulted := rfl
@[simp] theorem State.abort_running (s : State) (f : Fault) : (s.abort f).running = s.running := rfl
@[simp] theorem State.abort_faultRecord (s : State) (f : Fault) : (s.abort f).faultRecord = f.record := rfl
@[simp] theorem State.abort_loadFailed (s : State) (f : Fault) : (s.abort f).loadFailed = s.loadFailed := rfl
@[simp] theorem State.abort_config (s : State) (f : Fault) : (s.abort f).config = s.config := rfl
@[simp] theorem State.abort_stageOp (s : State) (f : Fault) : (s.abort f).stageOp = .decode := rfl

@[simp] theorem State.pokeDram_regs (s : State) (a v : Word) : (s.pokeDram a v).regs = s.regs := rfl
@[simp] theorem State.pokeDram_slotF (s : State) (a v : Word) : (s.pokeDram a v).slotF = s.slotF := rfl
@[simp] theorem State.pokeDram_slotD (s : State) (a v : Word) : (s.pokeDram a v).slotD = s.slotD := rfl
@[simp] theorem State.pokeDram_slotX (s : State) (a v : Word) : (s.pokeDram a v).slotX = s.slotX := rfl
@[simp] theorem State.pokeDram_slotM (s : State) (a v : Word) : (s.pokeDram a v).slotM = s.slotM := rfl
@[simp] theorem State.pokeDram_slotW (s : State) (a v : Word) : (s.pokeDram a v).slotW = s.slotW := rfl
@[simp] theorem State.pokeDram_chain (s : State) (a v : Word) : (s.pokeDram a v).chain = { s.chain with dram := (Dram.set 0 s.chain.dram a v).2 } := rfl
@[simp] theorem State.pokeDram_cycleCount (s : State) (a v : Word) : (s.pokeDram a v).cycleCount = s.cycleCount := rfl
@[simp] theorem State.pokeDram_stepCount (s : State) (a v : Word) : (s.pokeDram a v).stepCount = s.stepCount := rfl
@[simp] theorem State.pokeDram_runState (s : State) (a v : Word) : (s.pokeDram a v).runState = s.runState := rfl
@[simp] theorem State.pokeDram_running (s : State) (a v : Word) : (s.pokeDram a v).running = s.running := rfl
@[simp] theorem State.pokeDram_faultRecord (s : State) (a v : Word) : (s.pokeDram a v).faultRecord = s.faultRecord := rfl
@[simp] theorem State.pokeDram_loadFailed (s : State) (a v : Word) : (s.pokeDram a v).loadFailed = s.loadFailed := rfl
@[simp] theorem State.pokeDram_config (s : State) (a v : Word) : (s.pokeDram a v).config = s.config := rfl
@[simp] theorem State.pokeDram_stageOp (s : State) (a v : Word) : (s.pokeDram a v).stageOp = s.stageOp := rfl

@[simp] theorem State.fetched_regs (s : State) (w : Word) : (s.fetched w).regs = s.regs := rfl
@[simp] theorem State.fetched_slotF (s : State) (w : Word) : (s.fetched w).slotF = some w := rfl
@[simp] theorem State.fetched_slotD (s : State) (w : Word) : (s.fetched w).slotD = s.slotD := rfl
@[simp] theorem State.fetched_slotX (s : State) (w : Word) : (s.fetched w).slotX = s.slotX := rfl
@[simp] theorem State.fetched_slotM (s : State) (w : Word) : (s.fetched w).slotM = s.slotM := rfl
@[simp] theorem State.fetched_slotW (s : State) (w : Word) : (s.fetched w).slotW = s.slotW := rfl
@[simp] theorem State.fetched_chain (s : State) (w : Word) : (s.fetched w).chain = s.chain := rfl
@[simp] theorem State.fetched_cycleCount (s : State) (w : Word) : (s.fetched w).cycleCount = s.cycleCount := rfl
@[simp] theorem State.fetched_stepCount (s : State) (w : Word) : (s.fetched w).stepCount = s.stepCount := rfl
@[simp] theorem State.fetched_runState (s : State) (w : Word) : (s.fetched w).runState = .running := rfl
@[simp] theorem State.fetched_running (s : State) (w : Word) : (s.fetched w).running = s.running := rfl
@[simp] theorem State.fetched_faultRecord (s : State) (w : Word) : (s.fetched w).faultRecord = s.faultRecord := rfl
@[simp] theorem State.fetched_loadFailed (s : State) (w : Word) : (s.fetched w).loadFailed = s.loadFailed := rfl
@[simp] theorem State.fetched_config (s : State) (w : Word) : (s.fetched w).config = s.config := rfl
@[simp] theorem State.fetched_stageOp (s : State) (w : Word) : (s.fetched w).stageOp = .decode := rfl

@[simp] theorem actIncrement_regs (s : State) : (actIncrement s).regs = writeReg s.regs Reg.pc (s.reg Reg.pc + 1#32) := rfl
@[simp] theorem actIncrement_slotF (s : State) : (actIncrement s).slotF = s.slotF := rfl
@[simp] theorem actIncrement_slotD (s : State) : (actIncrement s).slotD = s.slotD := rfl
@[simp] theorem actIncrement_slotX (s : State) : (actIncrement s).slotX = s.slotX := rfl
@[simp] theorem actIncrement_slotM (s : State) : (actIncrement s).slotM = s.slotM := rfl
@[simp] theorem actIncrement_slotW (s : State) : (actIncrement s).slotW = s.slotW := rfl
@[simp] theorem actIncrement_chain (s : State) : (actIncrement s).chain = s.chain := rfl
@[simp] theorem actIncrement_cycleCount (s : State) : (actIncrement s).cycleCount = s.cycleCount := rfl
@[simp] theorem actIncrement_stepCount (s : State) : (actIncrement s).stepCount = s.stepCount := rfl
@[simp] theorem actIncrement_runState (s : State) : (actIncrement s).runState = s.runState := rfl
@[simp] theorem actIncrement_running (s : State) : (actIncrement s).running = s.running := rfl
@[simp] theorem actIncrement_faultRecord (s : State) : (actIncrement s).faultRecord = s.faultRecord := rfl
@[simp] theorem actIncrement_loadFailed (s : State) : (actIncrement s).loadFailed = s.loadFailed := rfl
@[simp] theorem actIncrement_config (s : State) : (actIncrement s).config = s.config := rfl
@[simp] theorem actIncrement_stageOp (s : State) : (actIncrement s).stageOp = s.stageOp := rfl

@[simp] theorem actReturn_regs (s : State) : (actReturn s).regs = s.regs := rfl
@[simp] theorem actReturn_slotF (s : State) : (actReturn s).slotF = s.slotF := rfl
@[simp] theorem actReturn_slotD (s : State) : (actReturn s).slotD = s.slotD := rfl
@[simp] theorem actReturn_slotX (s : State) : (actReturn s).slotX = s.slotX := rfl
@[simp] theorem actReturn_slotM (s : State) : (actReturn s).slotM = s.slotM := rfl
@[simp] theorem actReturn_slotW (s : State) : (actReturn s).slotW = s.slotW := rfl
@[simp] theorem actReturn_chain (s : State) : (actReturn s).chain = s.chain := rfl
@[simp] theorem actReturn_cycleCount (s : State) : (actReturn s).cycleCount = s.cycleCount := rfl
@[simp] theorem actReturn_stepCount (s : State) : (actReturn s).stepCount = s.stepCount + 1#64 := rfl
@[simp] theorem actReturn_runState (s : State) : (actReturn s).runState = if s.anySlot = true then .running else .halted := rfl
@[simp] theorem actReturn_running (s : State) : (actReturn s).running = s.anySlot := rfl
@[simp] theorem actReturn_faultRecord (s : State) : (actReturn s).faultRecord = s.faultRecord := rfl
@[simp] theorem actReturn_loadFailed (s : State) : (actReturn s).loadFailed = s.loadFailed := rfl
@[simp] theorem actReturn_config (s : State) : (actReturn s).config = s.config := rfl
@[simp] theorem actReturn_stageOp (s : State) : (actReturn s).stageOp = s.stageOp := rfl

@[simp] theorem State.rst_config (s : State) : s.rst.config = s.config := rfl

@[simp] theorem State.resetWith_regs (c : Config) : (State.resetWith c).regs = Vector.replicate 32 0#32 := rfl
@[simp] theorem State.resetWith_slotF (c : Config) : (State.resetWith c).slotF = none := rfl
@[simp] theorem State.resetWith_slotD (c : Config) : (State.resetWith c).slotD = none := rfl
@[simp] theorem State.resetWith_slotX (c : Config) : (State.resetWith c).slotX = none := rfl
@[simp] theorem State.resetWith_slotM (c : Config) : (State.resetWith c).slotM = none := rfl
@[simp] theorem State.resetWith_slotW (c : Config) : (State.resetWith c).slotW = none := rfl
@[simp] theorem State.resetWith_chain (c : Config) : (State.resetWith c).chain = { stores := c.levels.map fun _ => [], dram := { mem := [], present := [] } } := rfl
@[simp] theorem State.resetWith_cycleCount (c : Config) : (State.resetWith c).cycleCount = 0 := rfl
@[simp] theorem State.resetWith_stepCount (c : Config) : (State.resetWith c).stepCount = 0 := rfl
@[simp] theorem State.resetWith_runState (c : Config) : (State.resetWith c).runState = .idle := rfl
@[simp] theorem State.resetWith_running (c : Config) : (State.resetWith c).running = false := rfl
@[simp] theorem State.resetWith_faultRecord (c : Config) : (State.resetWith c).faultRecord = none := rfl
@[simp] theorem State.resetWith_loadFailed (c : Config) : (State.resetWith c).loadFailed = false := rfl
@[simp] theorem State.resetWith_config (c : Config) : (State.resetWith c).config = c := rfl
@[simp] theorem State.resetWith_stageOp (c : Config) : (State.resetWith c).stageOp = .decode := rfl

/-! ## Registers after an update -/

@[simp] theorem State.setReg_reg (s : State) (r q : Reg) (v : Word) :
    (s.setReg r v).reg q = if q = r then v else s.reg q := readReg_writeReg s.regs r q v

@[simp] theorem actIncrement_reg (s : State) (q : Reg) :
    (actIncrement s).reg q = if q = Reg.pc then s.reg Reg.pc + 1#32 else s.reg q :=
  readReg_writeReg s.regs Reg.pc q _

@[simp] theorem actReturn_reg (s : State) (q : Reg) : (actReturn s).reg q = s.reg q := rfl

@[simp] theorem State.abort_reg (s : State) (f : Fault) (q : Reg) : (s.abort f).reg q = s.reg q := rfl

@[simp] theorem State.resetWith_reg (c : Config) (r : Reg) : (State.resetWith c).reg r = 0#32 :=
  readReg_replicate r 0#32

/-! ## Memory views after an update -/

@[simp] theorem State.setReg_mem (s : State) (r : Reg) (v a : Word) : (s.setReg r v).mem a = s.mem a := rfl
@[simp] theorem State.abort_mem (s : State) (f : Fault) (a : Word) : (s.abort f).mem a = s.mem a := rfl
@[simp] theorem actIncrement_mem (s : State) (a : Word) : (actIncrement s).mem a = s.mem a := rfl
@[simp] theorem actReturn_mem (s : State) (a : Word) : (actReturn s).mem a = s.mem a := rfl
@[simp] theorem State.fetched_mem (s : State) (w a : Word) : (s.fetched w).mem a = s.mem a := rfl

/-! ## Whether a slot is filled, after an update -/

@[simp] theorem State.abort_anySlot (s : State) (f : Fault) : (s.abort f).anySlot = s.anySlot := rfl
@[simp] theorem actIncrement_anySlot (s : State) : (actIncrement s).anySlot = s.anySlot := rfl
@[simp] theorem actReturn_anySlot (s : State) : (actReturn s).anySlot = s.anySlot := rfl

end Sys2Proof.Machine
end

