-- ==== Sys2Proof/Laws/Memory.lean ====
section
/-!
SUPPORT. Sys2Proof/Laws/Memory.lean: sorted lists, DRAM's canonical form and its read and write laws, Timed results, and
what one level of the cache chain can do.
-/

namespace Sys2Proof.Machine

/-! ## Sorted association lists -/

theorem assocSorted_nil {α : Type} : assocSorted ([] : List (Nat × α)) = true := by simp [assocSorted]

theorem assocSorted_cons {α : Type} (e : Nat × α) (l : List (Nat × α)) :
    assocSorted (e :: l) = true ↔ (∀ x ∈ l, e.1 < x.1) ∧ assocSorted l = true := by
  simp [assocSorted, List.pairwise_cons]

theorem mem_assocPut {α : Type} {l : List (Nat × α)} {k : Nat} {v : α} {e : Nat × α} (h : e ∈ assocPut l k v) :
    e = (k, v) ∨ e ∈ l := by
  induction l with
  | nil => simpa [assocPut] using h
  | cons x r ih =>
    obtain ⟨j, y⟩ := x
    simp only [assocPut] at h
    split at h
    · simpa using h
    · split at h
      · rcases List.mem_cons.1 h with h | h
        · exact .inl h
        · exact .inr (List.mem_cons_of_mem _ h)
      · rcases List.mem_cons.1 h with h | h
        · exact .inr (h ▸ List.mem_cons_self)
        · exact (ih h).imp id (List.mem_cons_of_mem _)

theorem mem_assocErase {α : Type} {l : List (Nat × α)} {k : Nat} {e : Nat × α} (h : e ∈ assocErase l k) : e ∈ l := by
  induction l with
  | nil => simp [assocErase] at h
  | cons x r ih =>
    obtain ⟨j, y⟩ := x
    simp only [assocErase] at h
    split at h
    · exact List.mem_cons_of_mem _ h
    · rcases List.mem_cons.1 h with h | h
      · exact h ▸ List.mem_cons_self
      · exact List.mem_cons_of_mem _ (ih h)

theorem assocSorted_put {α : Type} {l : List (Nat × α)} (k : Nat) (v : α) (h : assocSorted l = true) :
    assocSorted (assocPut l k v) = true := by
  induction l with
  | nil => simp [assocPut, assocSorted]
  | cons x r ih =>
    obtain ⟨j, y⟩ := x
    obtain ⟨h1, h2⟩ := (assocSorted_cons _ _).1 h
    simp only [assocPut]
    split
    · rename_i hk
      refine (assocSorted_cons _ _).2 ⟨fun e he => ?_, h⟩
      rcases List.mem_cons.1 he with rfl | he
      · exact hk
      · exact lt_trans hk (h1 e he)
    · split
      · rename_i hk
        subst hk
        exact (assocSorted_cons _ _).2 ⟨h1, h2⟩
      · refine (assocSorted_cons _ _).2 ⟨fun e he => ?_, ih h2⟩
        rcases mem_assocPut he with rfl | he
        · show j < k
          omega
        · exact h1 e he

theorem assocSorted_erase {α : Type} {l : List (Nat × α)} (k : Nat) (h : assocSorted l = true) :
    assocSorted (assocErase l k) = true := by
  induction l with
  | nil => simp [assocErase, assocSorted]
  | cons x r ih =>
    obtain ⟨j, y⟩ := x
    obtain ⟨h1, h2⟩ := (assocSorted_cons _ _).1 h
    simp only [assocErase]
    split
    · exact h2
    · exact (assocSorted_cons _ _).2 ⟨fun e he => h1 e (mem_assocErase he), ih h2⟩

theorem assocFind_put {α : Type} (l : List (Nat × α)) (k j : Nat) (v : α) :
    assocFind (assocPut l k v) j = if j = k then some v else assocFind l j := by
  induction l with
  | nil =>
    simp only [assocPut, assocFind]
    by_cases h : j = k
    · simp [h]
    · simp [h, Ne.symm h]
  | cons x r ih =>
    obtain ⟨i, y⟩ := x
    simp only [assocPut]
    split
    · simp only [assocFind]
      by_cases h : j = k
      · simp [h]
      · simp [h, Ne.symm h]
    · split
      · rename_i hk
        subst hk
        simp only [assocFind]
        by_cases h : j = k
        · simp [h]
        · simp [h, Ne.symm h]
      · rename_i h1 h2
        simp only [assocFind, ih]
        by_cases h : i = j
        · subst h
          simp [Ne.symm h2]
        · simp [h]

theorem assocFind_eq_none_of_lt {α : Type} {l : List (Nat × α)} {k : Nat} (h : ∀ e ∈ l, k < e.1) :
    assocFind l k = none := by
  induction l with
  | nil => rfl
  | cons x r ih =>
    obtain ⟨j, y⟩ := x
    have hj : k < j := h (j, y) List.mem_cons_self
    simp only [assocFind]
    rw [if_neg (by omega)]
    exact ih fun e he => h e (List.mem_cons_of_mem _ he)

theorem assocFind_erase {α : Type} {l : List (Nat × α)} (k j : Nat) (h : assocSorted l = true) :
    assocFind (assocErase l k) j = if j = k then none else assocFind l j := by
  induction l with
  | nil => simp [assocErase, assocFind]
  | cons x r ih =>
    obtain ⟨i, y⟩ := x
    obtain ⟨h1, h2⟩ := (assocSorted_cons _ _).1 h
    simp only [assocErase]
    split
    · rename_i hk
      subst hk
      by_cases hj : j = i
      · subst hj
        rw [if_pos rfl]
        exact assocFind_eq_none_of_lt h1
      · simp [assocFind, hj, Ne.symm hj]
    · rename_i hk
      simp only [assocFind, ih h2]
      by_cases hj : i = j
      · subst hj
        simp [hk]
      · simp [hj]

theorem mem_of_assocFind {α : Type} {l : List (Nat × α)} {k : Nat} {v : α} (h : assocFind l k = some v) : (k, v) ∈ l := by
  induction l with
  | nil => simp [assocFind] at h
  | cons x r ih =>
    obtain ⟨j, y⟩ := x
    simp only [assocFind] at h
    split at h
    · rename_i hj
      subst hj
      cases h
      exact List.mem_cons_self
    · exact List.mem_cons_of_mem _ (ih h)

theorem assocFind_of_mem {α : Type} {l : List (Nat × α)} {k : Nat} {v : α} (hs : assocSorted l = true) (h : (k, v) ∈ l) :
    assocFind l k = some v := by
  induction l with
  | nil => simp at h
  | cons x r ih =>
    obtain ⟨j, y⟩ := x
    obtain ⟨h1, h2⟩ := (assocSorted_cons _ _).1 hs
    simp only [assocFind]
    rcases List.mem_cons.1 h with h | h
    · cases h
      simp
    · have : j < k := h1 _ h
      rw [if_neg (by omega)]
      exact ih h2 h

theorem mem_insertKey {l : List Nat} {k e : Nat} : e ∈ insertKey l k ↔ e = k ∨ e ∈ l := by
  induction l with
  | nil => simp [insertKey]
  | cons j r ih =>
    simp only [insertKey]
    split
    · simp
    · split
      · rename_i hk
        subst hk
        simp
      · simp only [List.mem_cons, ih]
        tauto

theorem insertKey_sorted {l : List Nat} (k : Nat) (h : l.Pairwise (· < ·)) : (insertKey l k).Pairwise (· < ·) := by
  induction l with
  | nil => simp [insertKey]
  | cons j r ih =>
    obtain ⟨h1, h2⟩ := List.pairwise_cons.1 h
    simp only [insertKey]
    split
    · rename_i hk
      refine List.pairwise_cons.2 ⟨fun e he => ?_, h⟩
      rcases List.mem_cons.1 he with rfl | he
      · exact hk
      · exact lt_trans hk (h1 e he)
    · split
      · exact h
      · refine List.pairwise_cons.2 ⟨fun e he => ?_, ih h2⟩
        rcases mem_insertKey.1 he with rfl | he
        · omega
        · exact h1 e he

/-! ## Bytes and words -/

theorem wordOfBytes_byteOf (w : Word) : wordOfBytes (byteOf w 0) (byteOf w 1) (byteOf w 2) (byteOf w 3) = w := by
  apply BitVec.eq_of_toNat_eq
  simp only [wordOfBytes, byteOf, toNat_append_eq, toNat_extract_eq]
  have hw := w.isLt
  omega

/-! ## DRAM contents: canonical form and read-after-write -/

theorem Memory.wf_iff (m : Memory) : Memory.wf m = true ↔ assocSorted m = true ∧ ∀ c ∈ m, c.2 ≠ 0#8 := by
  simp [Memory.wf]

theorem Memory.wf_nil : Memory.wf [] = true := by decide

theorem Memory.wf_writeByte {m : Memory} (k : Nat) (v : Byte) (h : Memory.wf m = true) :
    Memory.wf (Memory.writeByte m k v) = true := by
  obtain ⟨h1, h2⟩ := (Memory.wf_iff m).1 h
  rw [Memory.wf_iff]
  unfold Memory.writeByte
  split
  · exact ⟨assocSorted_erase k h1, fun c hc => h2 c (mem_assocErase hc)⟩
  · rename_i hv
    refine ⟨assocSorted_put k v h1, fun c hc => ?_⟩
    rcases mem_assocPut hc with rfl | hc
    · exact hv
    · exact h2 c hc

theorem Memory.readByte_writeByte {m : Memory} (k j : Nat) (v : Byte) (h : Memory.wf m = true) :
    Memory.readByte (Memory.writeByte m k v) j = if j = k then v else Memory.readByte m j := by
  obtain ⟨h1, -⟩ := (Memory.wf_iff m).1 h
  unfold Memory.writeByte Memory.readByte
  split
  · rename_i hv
    rw [assocFind_erase k j h1]
    split <;> simp [hv]
  · rw [assocFind_put]
    split <;> simp

/-- Every memory operation keeps the canonical form. -/
theorem Memory.wf_writeWord {m : Memory} (a : Nat) (w : Word) (h : Memory.wf m = true) :
    Memory.wf (Memory.writeWord m a w) = true :=
  Memory.wf_writeByte _ _ (Memory.wf_writeByte _ _ (Memory.wf_writeByte _ _ (Memory.wf_writeByte _ _ h)))

theorem Memory.readByte_writeWord {m : Memory} (a j : Nat) (w : Word) (h : Memory.wf m = true) :
    Memory.readByte (Memory.writeWord m a w) j = if j / 4 = a then byteOf w (j % 4) else Memory.readByte m j := by
  have h0 := Memory.wf_writeByte (4 * a) (byteOf w 0) h
  have h1 := Memory.wf_writeByte (4 * a + 1) (byteOf w 1) h0
  have h2 := Memory.wf_writeByte (4 * a + 2) (byteOf w 2) h1
  unfold Memory.writeWord
  rw [Memory.readByte_writeByte _ _ _ h2, Memory.readByte_writeByte _ _ _ h1, Memory.readByte_writeByte _ _ _ h0,
    Memory.readByte_writeByte _ _ _ h]
  have hj := Nat.div_add_mod j 4
  have hm := Nat.mod_lt j (by decide : 0 < 4)
  by_cases hq : j / 4 = a
  · rw [if_pos hq]
    obtain hr | hr | hr | hr : j % 4 = 0 ∨ j % 4 = 1 ∨ j % 4 = 2 ∨ j % 4 = 3 := by omega
    all_goals rw [hr]
    · rw [if_neg (by omega), if_neg (by omega), if_neg (by omega), if_pos (by omega)]
    · rw [if_neg (by omega), if_neg (by omega), if_pos (by omega)]
    · rw [if_neg (by omega), if_pos (by omega)]
    · rw [if_pos (by omega)]
  · rw [if_neg hq, if_neg (by omega), if_neg (by omega), if_neg (by omega), if_neg (by omega)]

/-- A word reads as it was written, and every other word as before. -/
theorem Memory.readWord_writeWord {m : Memory} (a b : Nat) (w : Word) (h : Memory.wf m = true) :
    Memory.readWord (Memory.writeWord m a w) b = if b = a then w else Memory.readWord m b := by
  unfold Memory.readWord
  simp only [Memory.readByte_writeWord _ _ _ h]
  rw [show 4 * b / 4 = b by omega, show (4 * b + 1) / 4 = b by omega, show (4 * b + 2) / 4 = b by omega,
    show (4 * b + 3) / 4 = b by omega, show 4 * b % 4 = 0 by omega, show (4 * b + 1) % 4 = 1 by omega,
    show (4 * b + 2) % 4 = 2 by omega, show (4 * b + 3) % 4 = 3 by omega]
  split
  · exact wordOfBytes_byteOf w
  · rfl

theorem mem_writeByte {m : Memory} {k : Nat} {v : Byte} {c : Host.Cell} (h : c ∈ Memory.writeByte m k v) :
    c = (k, v) ∨ c ∈ m := by
  unfold Memory.writeByte at h
  split at h
  · exact .inr (mem_assocErase h)
  · exact mem_assocPut h

theorem mem_writeWord {m : Memory} {a : Nat} {w : Word} {c : Host.Cell} (h : c ∈ Memory.writeWord m a w) :
    c.1 / 4 = a ∨ c ∈ m := by
  unfold Memory.writeWord at h
  rcases mem_writeByte h with rfl | h
  · exact .inl (by show (4 * a + 3) / 4 = a; omega)
  rcases mem_writeByte h with rfl | h
  · exact .inl (by show (4 * a + 2) / 4 = a; omega)
  rcases mem_writeByte h with rfl | h
  · exact .inl (by show (4 * a + 1) / 4 = a; omega)
  rcases mem_writeByte h with rfl | h
  · exact .inl (by show 4 * a / 4 = a; omega)
  exact .inr h

/-! ## DRAM (R52 to R54) -/

theorem Dram.wf_iff (d : Dram) :
    d.wf = true ↔ Memory.wf d.mem = true ∧ d.present.Pairwise (· < ·) ∧ (∀ a ∈ d.present, a < 2 ^ 32) ∧
      ∀ c ∈ d.mem, c.1 / 4 ∈ d.present := by
  simp [Dram.wf, and_assoc]

@[simp] theorem Dram.get_mem (n : Nat) (d : Dram) (a : Word) : (d.get n a).2.mem = d.mem := rfl
@[simp] theorem Dram.get_present (n : Nat) (d : Dram) (a : Word) :
    (d.get n a).2.present = insertKey d.present a.toNat := rfl
@[simp] theorem Dram.get_result (n : Nat) (d : Dram) (a : Word) :
    (d.get n a).1 = .wait n (Memory.readWord d.mem a.toNat) := rfl
@[simp] theorem Dram.set_mem (n : Nat) (d : Dram) (a v : Word) :
    (d.set n a v).2.mem = Memory.writeWord d.mem a.toNat v := rfl
@[simp] theorem Dram.set_present (n : Nat) (d : Dram) (a v : Word) :
    (d.set n a v).2.present = insertKey d.present a.toNat := rfl
@[simp] theorem Dram.set_result (n : Nat) (d : Dram) (a v : Word) : (d.set n a v).1 = .wait n () := rfl

theorem Dram.get_wf {d : Dram} (n : Nat) (a : Word) (h : d.wf = true) : (d.get n a).2.wf = true := by
  obtain ⟨h1, h2, h3, h4⟩ := (Dram.wf_iff d).1 h
  refine (Dram.wf_iff _).2 ⟨h1, insertKey_sorted _ h2, fun b hb => ?_, fun c hc => mem_insertKey.2 (.inr (h4 c hc))⟩
  rcases mem_insertKey.1 hb with rfl | hb
  · exact a.isLt
  · exact h3 b hb

theorem Dram.set_wf {d : Dram} (n : Nat) (a v : Word) (h : d.wf = true) : (d.set n a v).2.wf = true := by
  obtain ⟨h1, h2, h3, h4⟩ := (Dram.wf_iff d).1 h
  refine (Dram.wf_iff _).2 ⟨Memory.wf_writeWord _ _ h1, insertKey_sorted _ h2, fun b hb => ?_, fun c hc => ?_⟩
  · rcases mem_insertKey.1 hb with rfl | hb
    · exact a.isLt
    · exact h3 b hb
  · refine mem_insertKey.2 ?_
    rcases mem_writeWord hc with h | h
    · exact .inl h
    · exact .inr (h4 c h)

/-! ## Timed results (R34, R35) -/

@[simp] theorem Timed.andThen_err {α β : Type} (r : FaultKind) (f : α → Timed β) : (Timed.err r).andThen f = .err r := rfl
@[simp] theorem Timed.andThen_wait_wait {α β : Type} (c n : Nat) (v : α) (w : β) :
    ((Timed.wait c v).andThen fun _ => Timed.wait n w) = .wait (c + n) w := rfl
@[simp] theorem Timed.andThen_wait_err {α β : Type} (c : Nat) (v : α) (r : FaultKind) :
    ((Timed.wait c v).andThen fun _ => (Timed.err r : Timed β)) = .err r := rfl

/-! ## One cache level (R55 to R61) -/

/-- A hit finds the valid line at the index, with the address's tag (R57). -/
theorem Store.hit_eq_some {p : CacheParams} {st : Store} {a : Word} {l : Line} :
    Store.hit p st a = some l ↔ assocFind st (p.index a) = some l ∧ l.tag = p.tag a := by
  unfold Store.hit
  cases h : assocFind st (p.index a) with
  | none => simp
  | some l' =>
    simp only [Option.some.injEq]
    constructor
    · intro h'
      split at h'
      · rename_i ht
        cases h'
        exact ⟨rfl, ht⟩
      · cases h'
    · rintro ⟨rfl, ht⟩
      rw [if_pos ht]

/-- What the eviction step forwards (R61). -/
theorem Store.victim_eq_some {p : CacheParams} {st : Store} {a va vd : Word} :
    Store.victim p st a = some (va, vd) ↔
      ∃ l, assocFind st (p.index a) = some l ∧ l.tag ≠ p.tag a ∧ l.dirty = true ∧ va = p.address l.tag (p.index a) ∧
        vd = l.data := by
  unfold Store.victim
  cases h : assocFind st (p.index a) with
  | none => simp
  | some l' =>
    simp only [Option.some.injEq]
    constructor
    · intro h'
      split at h'
      · rename_i ht
        cases h'
        exact ⟨l', rfl, ht.1, ht.2, rfl, rfl⟩
      · cases h'
    · rintro ⟨l, rfl, ht, hd, rfl, rfl⟩
      rw [if_pos ⟨ht, hd⟩]

/-- The line a fill leaves at each index (R58, R59, R60). -/
theorem Store.find_fill (p : CacheParams) (st : Store) (a v : Word) (dirty : Bool) (i : Nat) :
    assocFind (Store.fill p st a v dirty) i =
      if i = p.index a then some { tag := p.tag a, data := v, dirty := dirty } else assocFind st i :=
  assocFind_put st (p.index a) i _

/-- After a fill, its own address hits. -/
theorem Store.hit_fill_same (p : CacheParams) (st : Store) (a v : Word) (dirty : Bool) :
    Store.hit p (Store.fill p st a v dirty) a = some { tag := p.tag a, data := v, dirty := dirty } := by
  rw [Store.hit_eq_some, Store.find_fill, if_pos rfl]
  exact ⟨rfl, rfl⟩

/-- An address is its tag and its index (R56). -/
theorem CacheParams.address_tag_index (p : CacheParams) (a : Word) : p.address (p.tag a) (p.index a) = a := by
  apply BitVec.eq_of_toNat_eq
  have h : a.toNat / p.lineCount * p.lineCount + a.toNat % p.lineCount = a.toNat := by
    rw [Nat.mul_comm]
    exact Nat.div_add_mod _ _
  simp only [Sys2Proof.CacheParams.address, Sys2Proof.CacheParams.tag, Sys2Proof.CacheParams.index, h,
    BitVec.toNat_ofNat]
  exact Nat.mod_eq_of_lt a.isLt

theorem CacheParams.index_lt {p : CacheParams} (h : p.wellFormed = true) (a : Word) : p.index a < p.lineCount := by
  have : p.lineCount ≠ 0 := by
    simp only [Sys2Proof.CacheParams.wellFormed, Sys2Proof.isPowerOfTwo, Bool.and_eq_true, decide_eq_true_eq] at h
    exact h.1
  exact Nat.mod_lt _ (Nat.pos_of_ne_zero this)

/-- Tag and index of an address put together again (R56, S5). -/
theorem CacheParams.tag_index_address {p : CacheParams} {t i : Nat} (hi : i < p.lineCount)
    (ha : t * p.lineCount + i < 2 ^ 32) : p.tag (p.address t i) = t ∧ p.index (p.address t i) = i := by
  have hp : 0 < p.lineCount := by omega
  simp only [Sys2Proof.CacheParams.tag, Sys2Proof.CacheParams.index, Sys2Proof.CacheParams.address, BitVec.toNat_ofNat,
    Nat.mod_eq_of_lt ha]
  constructor
  · rw [Nat.mul_comm, Nat.mul_add_div hp, Nat.div_eq_of_lt hi, Nat.add_zero]
  · rw [Nat.mul_comm, Nat.mul_add_mod, Nat.mod_eq_of_lt hi]

/-! ## One level of the chain: the equations the provers use instead of unfolding it -/

theorem chainSet_dram (n : Nat) (sts : List Store) (d : Dram) (a v : Word) :
    chainSet n [] sts d a v = (.wait n (), sts, (d.set n a v).2) := rfl

theorem chainGet_dram (n : Nat) (sts : List Store) (d : Dram) (a : Word) :
    chainGet n [] sts d a = (.wait n (Memory.readWord d.mem a.toNat), sts, (d.get n a).2) := rfl

/-- `set`, write hit (R59). -/
theorem chainSet_hit {n : Nat} {p : CacheParams} {ps : List CacheParams} {sts : List Store} {d : Dram} {a v : Word}
    {l : Line} (h : Store.hit p (sts.headD []) a = some l) :
    chainSet n (p :: ps) sts d a v = (.wait p.delay (), Store.fill p (sts.headD []) a v true :: sts.tail, d) := by
  simp only [chainSet, h]

/-- `set`, miss with nothing to evict (R60, R61, R62). -/
theorem chainSet_miss_clean {n : Nat} {p : CacheParams} {ps : List CacheParams} {sts : List Store} {d : Dram} {a v : Word}
    (h : Store.hit p (sts.headD []) a = none) (hv : Store.victim p (sts.headD []) a = none) :
    chainSet n (p :: ps) sts d a v = (.wait p.delay (), Store.fill p (sts.headD []) a v true :: sts.tail, d) := by
  simp only [chainSet, h, hv]

/-- No memory operation of the chain fails over this DRAM (R54). -/
theorem chainSet_waits (n : Nat) (ps : List CacheParams) (sts : List Store) (d : Dram) (a v : Word) :
    ∃ c, (chainSet n ps sts d a v).1 = .wait c () := by
  induction ps generalizing sts d a v with
  | nil => exact ⟨n, rfl⟩
  | cons p ps ih =>
    cases h : Store.hit p (sts.headD []) a with
    | some l => exact ⟨p.delay, by rw [chainSet_hit h]⟩
    | none =>
      cases hv : Store.victim p (sts.headD []) a with
      | none => exact ⟨p.delay, by rw [chainSet_miss_clean h hv]⟩
      | some q =>
        obtain ⟨va, vd⟩ := q
        obtain ⟨e, he⟩ := ih sts.tail d va vd
        refine ⟨p.delay + e, ?_⟩
        rcases hr : chainSet n ps sts.tail d va vd with ⟨r, sts', d'⟩
        rw [hr] at he
        simp only at he
        subst he
        simp only [chainSet, h, hv, hr, Timed.andThen_wait_wait]

/-- `set`, miss that evicts (R60, R61). -/
theorem chainSet_miss_dirty {n : Nat} {p : CacheParams} {ps : List CacheParams} {sts sts' : List Store} {d d' : Dram}
    {a v va vd : Word} {e : Nat} (h : Store.hit p (sts.headD []) a = none)
    (hv : Store.victim p (sts.headD []) a = some (va, vd))
    (he : chainSet n ps sts.tail d va vd = (.wait e (), sts', d')) :
    chainSet n (p :: ps) sts d a v = (.wait (p.delay + e) (), Store.fill p (sts.headD []) a v true :: sts', d') := by
  simp only [chainSet, h, hv, he, Timed.andThen_wait_wait]

theorem chainEvict_waits (n : Nat) (ps : List CacheParams) (sts : List Store) (d : Dram) (q : Option (Word × Word)) :
    ∃ c, (chainEvict n ps sts d q).1 = .wait c () := by
  cases q with
  | none => exact ⟨0, rfl⟩
  | some q => exact chainSet_waits n ps sts d q.1 q.2

/-- `get`, hit (R57). -/
theorem chainGet_hit {n : Nat} {p : CacheParams} {ps : List CacheParams} {sts : List Store} {d : Dram} {a : Word} {l : Line}
    (h : Store.hit p (sts.headD []) a = some l) : chainGet n (p :: ps) sts d a = (.wait p.delay l.data, sts, d) := by
  simp only [chainGet, h]

/-- `get`, miss: eviction, then the fill from below (R58, R61). -/
theorem chainGet_miss {n : Nat} {p : CacheParams} {ps : List CacheParams} {sts sts' sts'' : List Store} {d d' d'' : Dram}
    {a v : Word} {e g : Nat} (h : Store.hit p (sts.headD []) a = none)
    (he : chainEvict n ps sts.tail d (Store.victim p (sts.headD []) a) = (.wait e (), sts', d'))
    (hg : chainGet n ps sts' d' a = (.wait g v, sts'', d'')) :
    chainGet n (p :: ps) sts d a = (.wait (p.delay + (e + g)) v, Store.fill p (sts.headD []) a v false :: sts'', d'') := by
  simp only [chainGet, h, he, hg, Timed.andThen_wait_wait]

/-- No read of the chain fails over this DRAM (R54). -/
theorem chainGet_waits (n : Nat) (ps : List CacheParams) (sts : List Store) (d : Dram) (a : Word) :
    ∃ c v, (chainGet n ps sts d a).1 = .wait c v := by
  induction ps generalizing sts d with
  | nil => exact ⟨n, _, rfl⟩
  | cons p ps ih =>
    cases h : Store.hit p (sts.headD []) a with
    | some l => exact ⟨p.delay, l.data, by rw [chainGet_hit h]⟩
    | none =>
      obtain ⟨e, he⟩ := chainEvict_waits n ps sts.tail d (Store.victim p (sts.headD []) a)
      rcases hr : chainEvict n ps sts.tail d (Store.victim p (sts.headD []) a) with ⟨r, sts', d'⟩
      rw [hr] at he
      simp only at he
      subst he
      obtain ⟨g, v, hg⟩ := ih sts' d'
      rcases hr' : chainGet n ps sts' d' a with ⟨r, sts'', d''⟩
      rw [hr'] at hg
      simp only at hg
      subst hg
      exact ⟨_, v, by rw [chainGet_miss h hr hr']⟩

/-! ## The memory port (R71) -/

/-- What `MemRead` can do: it delivers a word after some cycles. -/
theorem memRead_waits (c : Config) (ch : Chain) (a : Word) : ∃ n v ch', ch.memRead c a = (.wait n v, ch') := by
  obtain ⟨n, v, h⟩ := chainGet_waits c.dramDelay c.levels ch.stores ch.dram a
  refine ⟨n, v, (ch.memRead c a).2, ?_⟩
  rw [← h]
  rfl

/-- What `MemWrite` can do: it completes after some cycles. -/
theorem memWrite_waits (c : Config) (ch : Chain) (a v : Word) : ∃ n ch', ch.memWrite c a v = (.wait n (), ch') := by
  obtain ⟨n, h⟩ := chainSet_waits c.dramDelay c.levels ch.stores ch.dram a v
  refine ⟨n, (ch.memWrite c a v).2, ?_⟩
  rw [← h]
  rfl

end Sys2Proof.Machine
end

