-- ==== Sys2Proof/Laws/Ops.lean ====
section
/-!
SUPPORT. Sys2Proof/Laws/Ops.lean: for each shared operation, once, everything it can do.
-/

namespace Sys2Proof.Machine

/-! ## Fields of a record -/

@[simp] theorem needField_some {α β : Type} (op : StageOp) (x : α) (k : α → Result β) : needField op (some x) k = k x := rfl
@[simp] theorem needField_none {α β : Type} (op : StageOp) (k : α → Result β) :
    needField op none k = .refused (.unsetField op) := rfl

/-- What `needField` can answer. -/
theorem needField_cases {α β : Type} (op : StageOp) (f : Option α) (k : α → Result β) :
    (∃ x, f = some x ∧ needField op f k = k x) ∨ (f = none ∧ needField op f k = .refused (.unsetField op)) := by
  cases f with
  | none => exact .inr ⟨rfl, rfl⟩
  | some x => exact .inl ⟨x, rfl, rfl⟩

/-! ## Execute operations -/

theorem executeBinary_set {op : Word → Word → Word} {r : InFlight} {a b : Word} (ha : r.a = some a) (hb : r.b = some b) :
    executeBinary op r = .next { r with res := some (op a b) } := by
  rw [executeBinary, ha, hb]
  rfl

theorem executeDivide_set {op : Word → Word → Word} {r : InFlight} {a b : Word} (ha : r.a = some a) (hb : r.b = some b)
    (h0 : b ≠ 0#32) : executeDivide op r = .next { r with res := some (op a b) } := by
  rw [executeDivide, ha, hb]
  exact if_neg h0

theorem executeDivide_zero {op : Word → Word → Word} {r : InFlight} {a : Word} (ha : r.a = some a)
    (hb : r.b = some 0#32) : executeDivide op r = .fault (.arithmeticError r.word) := by
  rw [executeDivide, ha, hb]
  rfl

/-! ## Access-memory operations -/

theorem accessLoad_set {c : Config} {r : InFlight} {ch ch' : Chain} {addr v : Word} {n : Nat} (ha : r.addr = some addr)
    (hm : ch.memRead c addr = (.wait n v, ch')) :
    accessLoad c r ch = .next { record := { r with res := some v }, chain := ch', cycles := n } := by
  rw [accessLoad, ha]
  simp only [needField_some, hm]

theorem accessWrite_set {c : Config} {r : InFlight} {ch ch' : Chain} {addr v : Word} {n : Nat}
    (hm : ch.memWrite c addr v = (.wait n (), ch')) :
    accessWrite c r ch addr v = .next { record := r, chain := ch', cycles := n } := by
  rw [accessWrite, hm]

theorem accessStore_set {c : Config} {r : InFlight} {ch ch' : Chain} {addr v : Word} {n : Nat} (ha : r.addr = some addr)
    (hv : r.a = some v) (hm : ch.memWrite c addr v = (.wait n (), ch')) :
    accessStore c r ch = .next { record := r, chain := ch', cycles := n } := by
  rw [accessStore, ha, hv]
  exact accessWrite_set hm

theorem accessRecordCode_set {c : Config} {r : InFlight} {ch ch' : Chain} {v : Word} {n : Nat} (hv : r.a = some v)
    (hm : ch.memWrite c c.intCodeAddr v = (.wait n (), ch')) :
    accessRecordCode c r ch = .next { record := r, chain := ch', cycles := n } := by
  rw [accessRecordCode, hv]
  exact accessWrite_set hm

/-! ## Write-back operations -/

theorem writeResult_set {r : InFlight} {x : Regs} {d : Reg} {v : Word} (hd : r.rd = some d) (hv : r.res = some v) :
    writeResult r x = .next (writeReg x d v) := by
  rw [writeResult, hd, hv]
  rfl

theorem writeOfA_set {f : Word → Word} {r : InFlight} {x : Regs} {d : Reg} {a : Word} (hd : r.rd = some d)
    (ha : r.a = some a) : writeOfA f r x = .next (writeReg x d (f a)) := by
  rw [writeOfA, hd, ha]
  rfl

theorem writeCompare_set {f : Word → Word → Word} {r : InFlight} {x : Regs} {a b : Word} (ha : r.a = some a)
    (hb : r.b = some b) : writeCompare f r x = .next (writeReg x Reg.status (f a b)) := by
  rw [writeCompare, ha, hb]
  rfl

theorem writeJump_taken {tk : Cond → Word → Bool} {go : Regs → Word → Regs} {r : InFlight} {x : Regs} {t : Word}
    (ht : r.addr = some t) (hc : tk r.cond (readReg x Reg.status) = true) : writeJump tk go r x = .next (go x t) := by
  rw [writeJump, ht]
  exact if_pos hc

theorem writeJump_notTaken {tk : Cond → Word → Bool} {go : Regs → Word → Regs} {r : InFlight} {x : Regs} {t : Word}
    (ht : r.addr = some t) (hc : tk r.cond (readReg x Reg.status) = false) : writeJump tk go r x = .next x := by
  rw [writeJump, ht]
  exact if_neg (by rw [hc]; decide)

theorem writeHandler_set {r : InFlight} {x : Regs} {a : Word} (ha : r.a = some a) :
    writeHandler r x = .next (writeReg x Reg.intHandler a) := by
  rw [writeHandler, ha]
  rfl

/-- What entering a software interrupt writes (R191). -/
theorem readReg_enterInterrupt (x : Regs) (q : Reg) :
    readReg (enterInterrupt x) q =
      if q = Reg.pc then readReg x Reg.intHandler
      else if q = Reg.intLink then readReg x Reg.pc + 1#32 else readReg x q := by
  simp only [enterInterrupt, jumpTo, readReg_writeReg]
  rw [if_neg (show ¬ Reg.intHandler = Reg.intLink by decide)]

/-- What leaving it writes (R192). -/
theorem readReg_returnFromInterrupt (x : Regs) (q : Reg) :
    readReg (returnFromInterrupt x) q = if q = Reg.pc then readReg x Reg.intLink else readReg x q := by
  simp only [returnFromInterrupt, jumpTo, readReg_writeReg]

/-- What a taken subroutine jump writes (R183). -/
theorem readReg_linkAndJump (x : Regs) (t : Word) (q : Reg) :
    readReg (linkAndJump x t) q =
      if q = Reg.pc then t else if q = Reg.link then readReg x Reg.pc + 1#32 else readReg x q := by
  simp only [linkAndJump, jumpTo, readReg_writeReg]

/-! ## One stage operation -/

theorem runStage_decode {i : Instr} {ops : StageOps} {s : State} {w : Word} (h : s.stageOp = .decode)
    (hw : s.slotF = some w) :
    runStage i ops s = .next { s with slotD := some (ops.decode s.regs (InFlight.blank i w (condField w))) } := by
  simp only [runStage, h, hw]

theorem runStage_execute {i : Instr} {ops : StageOps} {s : State} {r r' : InFlight} (h : s.stageOp = .execute)
    (hr : s.slotD = some r) (he : ops.execute r = .next r') : runStage i ops s = .next { s with slotX := some r' } := by
  simp only [runStage, h, hr, he, takeResult]

theorem runStage_execute_fault {i : Instr} {ops : StageOps} {s : State} {r : InFlight} {f : Fault}
    (h : s.stageOp = .execute) (hr : s.slotD = some r) (he : ops.execute r = .fault f) :
    runStage i ops s = .next (s.abort f) := by
  simp only [runStage, h, hr, he, takeResult]

theorem runStage_accessMemory {i : Instr} {ops : StageOps} {s : State} {r : InFlight} {acc : Access}
    (h : s.stageOp = .accessMemory) (hr : s.slotX = some r) (ha : ops.accessMemory r s.chain = .next acc) :
    runStage i ops s =
      .next { s with
        slotM := some acc.record, chain := acc.chain, cycleCount := s.cycleCount + BitVec.ofNat 64 acc.cycles } := by
  simp only [runStage, h, hr, ha, takeResult]

theorem runStage_writeBack {i : Instr} {ops : StageOps} {s : State} {r : InFlight} {x : Regs} (h : s.stageOp = .writeBack)
    (hr : s.slotM = some r) (hw : ops.writeBack r s.regs = .next x) :
    runStage i ops s = .next { s with slotW := some r, regs := x } := by
  simp only [runStage, h, hr, hw, takeResult]

/-- What a taken result can be. -/
theorem takeResult_cases {α : Type} {s t : State} {x : Result α} {effect : α → State}
    (h : takeResult s x effect = .next t) :
    (∃ v, x = .next v ∧ t = effect v) ∨ (∃ f, x = .fault f ∧ t = s.abort f) := by
  cases x with
  | next v => cases h; exact .inl ⟨v, rfl, rfl⟩
  | fault f => cases h; exact .inr ⟨f, rfl, rfl⟩
  | refused q => cases h

/-- A taken result is never an answered fault. -/
theorem takeResult_ne_fault {α : Type} (s : State) (x : Result α) (effect : α → State) (f : Fault) :
    takeResult s x effect ≠ .fault f := by
  cases x <;> simp [takeResult]

/-- Everything a stage operation that answers a next state can have done: its effect, or the fault it took. -/
theorem runStage_cases {i : Instr} {ops : StageOps} {s t : State} (h : runStage i ops s = .next t) :
    (s.stageOp = .decode ∧ ∃ w, s.slotF = some w ∧
      t = { s with slotD := some (ops.decode s.regs (InFlight.blank i w (condField w))) }) ∨
    (s.stageOp = .execute ∧ ∃ r, s.slotD = some r ∧
      ((∃ r', ops.execute r = .next r' ∧ t = { s with slotX := some r' }) ∨
        ∃ f, ops.execute r = .fault f ∧ t = s.abort f)) ∨
    (s.stageOp = .accessMemory ∧ ∃ r, s.slotX = some r ∧
      ((∃ acc, ops.accessMemory r s.chain = .next acc ∧
        t = { s with
          slotM := some acc.record, chain := acc.chain, cycleCount := s.cycleCount + BitVec.ofNat 64 acc.cycles }) ∨
        ∃ f, ops.accessMemory r s.chain = .fault f ∧ t = s.abort f)) ∨
    (s.stageOp = .writeBack ∧ ∃ r, s.slotM = some r ∧
      ((∃ x, ops.writeBack r s.regs = .next x ∧ t = { s with slotW := some r, regs := x }) ∨
        ∃ f, ops.writeBack r s.regs = .fault f ∧ t = s.abort f)) := by
  unfold runStage at h
  split at h
  · rename_i hs
    split at h
    · cases h
    · rename_i w hw
      cases h
      exact .inl ⟨hs, w, hw, rfl⟩
  · rename_i hs
    split at h
    · cases h
    · rename_i r hr
      exact .inr (.inl ⟨hs, r, hr, takeResult_cases h⟩)
  · rename_i hs
    split at h
    · cases h
    · rename_i r hr
      exact .inr (.inr (.inl ⟨hs, r, hr, takeResult_cases h⟩))
  · rename_i hs
    split at h
    · cases h
    · rename_i r hr
      exact .inr (.inr (.inr ⟨hs, r, hr, takeResult_cases h⟩))

/-- A stage operation never answers a fault: it takes it. -/
theorem runStage_ne_fault (i : Instr) (ops : StageOps) (s : State) (f : Fault) : runStage i ops s ≠ .fault f := by
  unfold runStage
  split <;> split <;> first | exact takeResult_ne_fault _ _ _ _ | simp

end Sys2Proof.Machine
end

