-- ==== Sys2Proof/Laws/PerInstr.lean ====
section
/-!
SUPPORT. Sys2Proof/Laws/PerInstr.lean: one lemma per instruction: the type and opcode of its encoded word are the ones
30_encoding.md R91 and R100 to R102 assign to it.
-/

namespace Sys2Proof.Laws.EncodeKey

/-- The `itype` value of an instruction (R91, R100 to R102). -/
def itypeOf : Instr → BitVec 2
  | .addu _ _ _ => 0#2
  | .addui _ _ _ => 0#2
  | .adds _ _ _ => 0#2
  | .addsi _ _ _ => 0#2
  | .subu _ _ _ => 0#2
  | .subui _ _ _ => 0#2
  | .subs _ _ _ => 0#2
  | .subsi _ _ _ => 0#2
  | .mulu _ _ _ => 0#2
  | .mului _ _ _ => 0#2
  | .muls _ _ _ => 0#2
  | .mulsi _ _ _ => 0#2
  | .divu _ _ _ => 0#2
  | .divui _ _ _ => 0#2
  | .divs _ _ _ => 0#2
  | .divsi _ _ _ => 0#2
  | .cmpu _ _ => 0#2
  | .cmps _ _ => 0#2
  | .asl _ _ => 0#2
  | .asli _ _ => 0#2
  | .asr _ _ => 0#2
  | .asri _ _ => 0#2
  | .lsl _ _ => 0#2
  | .lsli _ _ => 0#2
  | .lsr _ _ => 0#2
  | .lsri _ _ => 0#2
  | .and _ _ _ => 0#2
  | .andi _ _ _ => 0#2
  | .or _ _ _ => 0#2
  | .ori _ _ _ => 0#2
  | .xor _ _ _ => 0#2
  | .xori _ _ _ => 0#2
  | .not _ _ => 0#2
  | .mov _ _ => 0#2
  | .nop => 0#2
  | .ldr _ _ => 1#2
  | .ldri _ _ => 1#2
  | .str _ _ => 1#2
  | .stri _ _ => 1#2
  | .jmp _ _ => 2#2
  | .jmpi _ _ => 2#2
  | .jmps _ _ => 2#2
  | .jmpsi _ _ => 2#2
  | .sih _ => 2#2
  | .int _ => 2#2
  | .rfi => 2#2

/-- The opcode of an instruction within its type (R100 to R102). -/
def opcodeOf : Instr → Nat
  | .addu _ _ _ => 0
  | .addui _ _ _ => 1
  | .adds _ _ _ => 2
  | .addsi _ _ _ => 3
  | .subu _ _ _ => 4
  | .subui _ _ _ => 5
  | .subs _ _ _ => 6
  | .subsi _ _ _ => 7
  | .mulu _ _ _ => 8
  | .mului _ _ _ => 9
  | .muls _ _ _ => 10
  | .mulsi _ _ _ => 11
  | .divu _ _ _ => 12
  | .divui _ _ _ => 13
  | .divs _ _ _ => 14
  | .divsi _ _ _ => 15
  | .cmpu _ _ => 16
  | .cmps _ _ => 17
  | .asl _ _ => 18
  | .asli _ _ => 19
  | .asr _ _ => 20
  | .asri _ _ => 21
  | .lsl _ _ => 22
  | .lsli _ _ => 23
  | .lsr _ _ => 24
  | .lsri _ _ => 25
  | .and _ _ _ => 26
  | .andi _ _ _ => 27
  | .or _ _ _ => 28
  | .ori _ _ _ => 29
  | .xor _ _ _ => 30
  | .xori _ _ _ => 31
  | .not _ _ => 32
  | .mov _ _ => 33
  | .nop => 34
  | .ldr _ _ => 0
  | .ldri _ _ => 1
  | .str _ _ => 2
  | .stri _ _ => 3
  | .jmp _ _ => 0
  | .jmpi _ _ => 1
  | .jmps _ _ => 2
  | .jmpsi _ _ => 3
  | .sih _ => 4
  | .int _ => 5
  | .rfi => 6

/-- The opcode a word carries, in the width its type gives it (R90). -/
def wordOpcode (w : Word) : Nat := if itypeField w = 0#2 then (opcode6 w).toNat else (opcode3 w).toNat

/-- The encoded word carries the instruction's type and opcode. -/
def Statement (i : Instr) : Prop := itypeField (encode i) = itypeOf i ∧ wordOpcode (encode i) = opcodeOf i

theorem wordOpcode_alu {w : Word} (h : itypeField w = 0#2) : wordOpcode w = (opcode6 w).toNat := if_pos h

theorem wordOpcode_memory {w : Word} (h : itypeField w = 1#2) : wordOpcode w = (opcode3 w).toNat :=
  if_neg (by rw [h]; decide)

theorem wordOpcode_control {w : Word} (h : itypeField w = 2#2) : wordOpcode w = (opcode3 w).toNat :=
  if_neg (by rw [h]; decide)

theorem addu (rd rs1 rs2 : Reg) : Statement (.addu rd rs1 rs2) :=
  ⟨itypeField_encodeA3R _ _ _ _, (wordOpcode_alu (itypeField_encodeA3R _ _ _ _)).trans (congrArg BitVec.toNat (opcode6_encodeA3R _ _ _ _))⟩

theorem addui (rd rs1 : Reg) (imm9 : BitVec 9) : Statement (.addui rd rs1 imm9) :=
  ⟨itypeField_encodeA3I _ _ _ _, (wordOpcode_alu (itypeField_encodeA3I _ _ _ _)).trans (congrArg BitVec.toNat (opcode6_encodeA3I _ _ _ _))⟩

theorem adds (rd rs1 rs2 : Reg) : Statement (.adds rd rs1 rs2) :=
  ⟨itypeField_encodeA3R _ _ _ _, (wordOpcode_alu (itypeField_encodeA3R _ _ _ _)).trans (congrArg BitVec.toNat (opcode6_encodeA3R _ _ _ _))⟩

theorem addsi (rd rs1 : Reg) (imm9 : BitVec 9) : Statement (.addsi rd rs1 imm9) :=
  ⟨itypeField_encodeA3I _ _ _ _, (wordOpcode_alu (itypeField_encodeA3I _ _ _ _)).trans (congrArg BitVec.toNat (opcode6_encodeA3I _ _ _ _))⟩

theorem subu (rd rs1 rs2 : Reg) : Statement (.subu rd rs1 rs2) :=
  ⟨itypeField_encodeA3R _ _ _ _, (wordOpcode_alu (itypeField_encodeA3R _ _ _ _)).trans (congrArg BitVec.toNat (opcode6_encodeA3R _ _ _ _))⟩

theorem subui (rd rs1 : Reg) (imm9 : BitVec 9) : Statement (.subui rd rs1 imm9) :=
  ⟨itypeField_encodeA3I _ _ _ _, (wordOpcode_alu (itypeField_encodeA3I _ _ _ _)).trans (congrArg BitVec.toNat (opcode6_encodeA3I _ _ _ _))⟩

theorem subs (rd rs1 rs2 : Reg) : Statement (.subs rd rs1 rs2) :=
  ⟨itypeField_encodeA3R _ _ _ _, (wordOpcode_alu (itypeField_encodeA3R _ _ _ _)).trans (congrArg BitVec.toNat (opcode6_encodeA3R _ _ _ _))⟩

theorem subsi (rd rs1 : Reg) (imm9 : BitVec 9) : Statement (.subsi rd rs1 imm9) :=
  ⟨itypeField_encodeA3I _ _ _ _, (wordOpcode_alu (itypeField_encodeA3I _ _ _ _)).trans (congrArg BitVec.toNat (opcode6_encodeA3I _ _ _ _))⟩

theorem mulu (rd rs1 rs2 : Reg) : Statement (.mulu rd rs1 rs2) :=
  ⟨itypeField_encodeA3R _ _ _ _, (wordOpcode_alu (itypeField_encodeA3R _ _ _ _)).trans (congrArg BitVec.toNat (opcode6_encodeA3R _ _ _ _))⟩

theorem mului (rd rs1 : Reg) (imm9 : BitVec 9) : Statement (.mului rd rs1 imm9) :=
  ⟨itypeField_encodeA3I _ _ _ _, (wordOpcode_alu (itypeField_encodeA3I _ _ _ _)).trans (congrArg BitVec.toNat (opcode6_encodeA3I _ _ _ _))⟩

theorem muls (rd rs1 rs2 : Reg) : Statement (.muls rd rs1 rs2) :=
  ⟨itypeField_encodeA3R _ _ _ _, (wordOpcode_alu (itypeField_encodeA3R _ _ _ _)).trans (congrArg BitVec.toNat (opcode6_encodeA3R _ _ _ _))⟩

theorem mulsi (rd rs1 : Reg) (imm9 : BitVec 9) : Statement (.mulsi rd rs1 imm9) :=
  ⟨itypeField_encodeA3I _ _ _ _, (wordOpcode_alu (itypeField_encodeA3I _ _ _ _)).trans (congrArg BitVec.toNat (opcode6_encodeA3I _ _ _ _))⟩

theorem divu (rd rs1 rs2 : Reg) : Statement (.divu rd rs1 rs2) :=
  ⟨itypeField_encodeA3R _ _ _ _, (wordOpcode_alu (itypeField_encodeA3R _ _ _ _)).trans (congrArg BitVec.toNat (opcode6_encodeA3R _ _ _ _))⟩

theorem divui (rd rs1 : Reg) (imm9 : BitVec 9) : Statement (.divui rd rs1 imm9) :=
  ⟨itypeField_encodeA3I _ _ _ _, (wordOpcode_alu (itypeField_encodeA3I _ _ _ _)).trans (congrArg BitVec.toNat (opcode6_encodeA3I _ _ _ _))⟩

theorem divs (rd rs1 rs2 : Reg) : Statement (.divs rd rs1 rs2) :=
  ⟨itypeField_encodeA3R _ _ _ _, (wordOpcode_alu (itypeField_encodeA3R _ _ _ _)).trans (congrArg BitVec.toNat (opcode6_encodeA3R _ _ _ _))⟩

theorem divsi (rd rs1 : Reg) (imm9 : BitVec 9) : Statement (.divsi rd rs1 imm9) :=
  ⟨itypeField_encodeA3I _ _ _ _, (wordOpcode_alu (itypeField_encodeA3I _ _ _ _)).trans (congrArg BitVec.toNat (opcode6_encodeA3I _ _ _ _))⟩

theorem cmpu (rs1 rs2 : Reg) : Statement (.cmpu rs1 rs2) :=
  ⟨itypeField_encodeA2R _ _ _, (wordOpcode_alu (itypeField_encodeA2R _ _ _)).trans (congrArg BitVec.toNat (opcode6_encodeA2R _ _ _))⟩

theorem cmps (rs1 rs2 : Reg) : Statement (.cmps rs1 rs2) :=
  ⟨itypeField_encodeA2R _ _ _, (wordOpcode_alu (itypeField_encodeA2R _ _ _)).trans (congrArg BitVec.toNat (opcode6_encodeA2R _ _ _))⟩

theorem asl (rd rs : Reg) : Statement (.asl rd rs) :=
  ⟨itypeField_encodeA2R _ _ _, (wordOpcode_alu (itypeField_encodeA2R _ _ _)).trans (congrArg BitVec.toNat (opcode6_encodeA2R _ _ _))⟩

theorem asli (rd : Reg) (imm14 : BitVec 14) : Statement (.asli rd imm14) :=
  ⟨itypeField_encodeA2I _ _ _, (wordOpcode_alu (itypeField_encodeA2I _ _ _)).trans (congrArg BitVec.toNat (opcode6_encodeA2I _ _ _))⟩

theorem asr (rd rs : Reg) : Statement (.asr rd rs) :=
  ⟨itypeField_encodeA2R _ _ _, (wordOpcode_alu (itypeField_encodeA2R _ _ _)).trans (congrArg BitVec.toNat (opcode6_encodeA2R _ _ _))⟩

theorem asri (rd : Reg) (imm14 : BitVec 14) : Statement (.asri rd imm14) :=
  ⟨itypeField_encodeA2I _ _ _, (wordOpcode_alu (itypeField_encodeA2I _ _ _)).trans (congrArg BitVec.toNat (opcode6_encodeA2I _ _ _))⟩

theorem lsl (rd rs : Reg) : Statement (.lsl rd rs) :=
  ⟨itypeField_encodeA2R _ _ _, (wordOpcode_alu (itypeField_encodeA2R _ _ _)).trans (congrArg BitVec.toNat (opcode6_encodeA2R _ _ _))⟩

theorem lsli (rd : Reg) (imm14 : BitVec 14) : Statement (.lsli rd imm14) :=
  ⟨itypeField_encodeA2I _ _ _, (wordOpcode_alu (itypeField_encodeA2I _ _ _)).trans (congrArg BitVec.toNat (opcode6_encodeA2I _ _ _))⟩

theorem lsr (rd rs : Reg) : Statement (.lsr rd rs) :=
  ⟨itypeField_encodeA2R _ _ _, (wordOpcode_alu (itypeField_encodeA2R _ _ _)).trans (congrArg BitVec.toNat (opcode6_encodeA2R _ _ _))⟩

theorem lsri (rd : Reg) (imm14 : BitVec 14) : Statement (.lsri rd imm14) :=
  ⟨itypeField_encodeA2I _ _ _, (wordOpcode_alu (itypeField_encodeA2I _ _ _)).trans (congrArg BitVec.toNat (opcode6_encodeA2I _ _ _))⟩

theorem and (rd rs1 rs2 : Reg) : Statement (.and rd rs1 rs2) :=
  ⟨itypeField_encodeA3R _ _ _ _, (wordOpcode_alu (itypeField_encodeA3R _ _ _ _)).trans (congrArg BitVec.toNat (opcode6_encodeA3R _ _ _ _))⟩

theorem andi (rd rs1 : Reg) (imm9 : BitVec 9) : Statement (.andi rd rs1 imm9) :=
  ⟨itypeField_encodeA3I _ _ _ _, (wordOpcode_alu (itypeField_encodeA3I _ _ _ _)).trans (congrArg BitVec.toNat (opcode6_encodeA3I _ _ _ _))⟩

theorem or (rd rs1 rs2 : Reg) : Statement (.or rd rs1 rs2) :=
  ⟨itypeField_encodeA3R _ _ _ _, (wordOpcode_alu (itypeField_encodeA3R _ _ _ _)).trans (congrArg BitVec.toNat (opcode6_encodeA3R _ _ _ _))⟩

theorem ori (rd rs1 : Reg) (imm9 : BitVec 9) : Statement (.ori rd rs1 imm9) :=
  ⟨itypeField_encodeA3I _ _ _ _, (wordOpcode_alu (itypeField_encodeA3I _ _ _ _)).trans (congrArg BitVec.toNat (opcode6_encodeA3I _ _ _ _))⟩

theorem xor (rd rs1 rs2 : Reg) : Statement (.xor rd rs1 rs2) :=
  ⟨itypeField_encodeA3R _ _ _ _, (wordOpcode_alu (itypeField_encodeA3R _ _ _ _)).trans (congrArg BitVec.toNat (opcode6_encodeA3R _ _ _ _))⟩

theorem xori (rd rs1 : Reg) (imm9 : BitVec 9) : Statement (.xori rd rs1 imm9) :=
  ⟨itypeField_encodeA3I _ _ _ _, (wordOpcode_alu (itypeField_encodeA3I _ _ _ _)).trans (congrArg BitVec.toNat (opcode6_encodeA3I _ _ _ _))⟩

theorem not (rd rs : Reg) : Statement (.not rd rs) :=
  ⟨itypeField_encodeA2R _ _ _, (wordOpcode_alu (itypeField_encodeA2R _ _ _)).trans (congrArg BitVec.toNat (opcode6_encodeA2R _ _ _))⟩

theorem mov (rd rs : Reg) : Statement (.mov rd rs) :=
  ⟨itypeField_encodeA2R _ _ _, (wordOpcode_alu (itypeField_encodeA2R _ _ _)).trans (congrArg BitVec.toNat (opcode6_encodeA2R _ _ _))⟩

theorem nop : Statement .nop :=
  ⟨itypeField_encodeA0 _, (wordOpcode_alu (itypeField_encodeA0 _)).trans (congrArg BitVec.toNat (opcode6_encodeA0 _))⟩

theorem ldr (rd rs : Reg) : Statement (.ldr rd rs) :=
  ⟨itypeField_encodeM2R _ _ _, (wordOpcode_memory (itypeField_encodeM2R _ _ _)).trans (congrArg BitVec.toNat (opcode3_encodeM2R _ _ _))⟩

theorem ldri (rd : Reg) (imm17 : BitVec 17) : Statement (.ldri rd imm17) :=
  ⟨itypeField_encodeM2I _ _ _, (wordOpcode_memory (itypeField_encodeM2I _ _ _)).trans (congrArg BitVec.toNat (opcode3_encodeM2I _ _ _))⟩

theorem str (rv rs : Reg) : Statement (.str rv rs) :=
  ⟨itypeField_encodeM2R _ _ _, (wordOpcode_memory (itypeField_encodeM2R _ _ _)).trans (congrArg BitVec.toNat (opcode3_encodeM2R _ _ _))⟩

theorem stri (rv : Reg) (imm17 : BitVec 17) : Statement (.stri rv imm17) :=
  ⟨itypeField_encodeM2I _ _ _, (wordOpcode_memory (itypeField_encodeM2I _ _ _)).trans (congrArg BitVec.toNat (opcode3_encodeM2I _ _ _))⟩

theorem jmp (rs : Reg) (cond : Cond) : Statement (.jmp rs cond) :=
  ⟨itypeField_encodeC1R _ _ _, (wordOpcode_control (itypeField_encodeC1R _ _ _)).trans (congrArg BitVec.toNat (opcode3_encodeC1R _ _ _))⟩

theorem jmpi (imm22 : BitVec 22) (cond : Cond) : Statement (.jmpi imm22 cond) :=
  ⟨itypeField_encodeC1I _ _ _, (wordOpcode_control (itypeField_encodeC1I _ _ _)).trans (congrArg BitVec.toNat (opcode3_encodeC1I _ _ _))⟩

theorem jmps (rs : Reg) (cond : Cond) : Statement (.jmps rs cond) :=
  ⟨itypeField_encodeC1R _ _ _, (wordOpcode_control (itypeField_encodeC1R _ _ _)).trans (congrArg BitVec.toNat (opcode3_encodeC1R _ _ _))⟩

theorem jmpsi (imm22 : BitVec 22) (cond : Cond) : Statement (.jmpsi imm22 cond) :=
  ⟨itypeField_encodeC1I _ _ _, (wordOpcode_control (itypeField_encodeC1I _ _ _)).trans (congrArg BitVec.toNat (opcode3_encodeC1I _ _ _))⟩

theorem sih (rs : Reg) : Statement (.sih rs) :=
  ⟨itypeField_encodeC1R _ _ _, (wordOpcode_control (itypeField_encodeC1R _ _ _)).trans (congrArg BitVec.toNat (opcode3_encodeC1R _ _ _))⟩

theorem int (imm22 : BitVec 22) : Statement (.int imm22) :=
  ⟨itypeField_encodeC1I _ _ _, (wordOpcode_control (itypeField_encodeC1I _ _ _)).trans (congrArg BitVec.toNat (opcode3_encodeC1I _ _ _))⟩

theorem rfi : Statement .rfi :=
  ⟨itypeField_encodeC0 _, (wordOpcode_control (itypeField_encodeC0 _)).trans (congrArg BitVec.toNat (opcode3_encodeC0 _))⟩

end Sys2Proof.Laws.EncodeKey
end

