-- ==== Sys2Proof/Laws/Ports.lean ====
section
/-!
SUPPORT. Sys2Proof/Laws/Ports.lean: for each host action, once, everything it can do.
-/

namespace Sys2Proof.Machine

/-! ## When an action is taken -/

theorem inIdle_idle {α : Type} {s : State} (k : Result α) (h : s.runState = .idle) : inIdle s k = k := by
  simp only [inIdle, h]

theorem inIdle_outside {α : Type} {s : State} (k : Result α) (h : s.runState ≠ .idle) :
    inIdle s k = .refused .hostActionOutsideIdle := by
  unfold inIdle
  split <;> simp_all

/-- An action of IDLE that answers was asked for in IDLE. -/
theorem inIdle_next {α : Type} {s : State} {k : Result α} {x : α} (h : inIdle s k = .next x) :
    s.runState = .idle ∧ k = .next x := by
  by_cases hi : s.runState = .idle
  · rw [inIdle_idle k hi] at h
    exact ⟨hi, h⟩
  · rw [inIdle_outside k hi] at h
    cases h

theorem whenLoadable_ready {α : Type} {s : State} (k : Result α) (h : s.runState = .idle) (hf : s.loadFailed = false)
    (hv : s.allLinesInvalid = true) : whenLoadable s k = k := by
  rw [whenLoadable, inIdle_idle _ h]
  simp only [hf, hv, Bool.false_eq_true, if_false, if_true]

/-- An image load that answers was asked for in IDLE, with every line invalid and no failed load before it. -/
theorem whenLoadable_next {α : Type} {s : State} {k : Result α} {x : α} (h : whenLoadable s k = .next x) :
    s.runState = .idle ∧ s.loadFailed = false ∧ s.allLinesInvalid = true ∧ k = .next x := by
  obtain ⟨hi, h⟩ := inIdle_next h
  split at h
  · cases h
  · split at h
    · exact ⟨hi, by simp_all, ‹_›, h⟩
    · cases h

/-- A load-port write that is taken: in IDLE, with exactly the word written. -/
theorem hostLoadWord_next {a v : Word} {s t : State} (h : hostLoadWord a v s = .next t) :
    s.runState = .idle ∧ t = s.pokeDram a v := by
  obtain ⟨hi, h⟩ := inIdle_next h
  cases h
  exact ⟨hi, rfl⟩

/-- What a step and a load at one edge can lead to, when the load comes second. -/
theorem withWord_next {a v : Word} {x : Host.Outcome State Fault Refusal} {t : State} (h : withWord a v x = .next t) :
    ∃ u, x = .next u ∧ t = u.pokeDram a v := by
  cases x with
  | next u => cases h; exact ⟨u, rfl, rfl⟩
  | fault f => cases h
  | refused q => cases h

/-- Everything a clock edge that answers can have done. -/
theorem clockEdge_cases {loadFirst : Bool} {p : PortIn} {s t : State} (h : clockEdge loadFirst p s = .next t) :
    (p.rst = true ∧ t = s.rst) ∨ (p.rst = false ∧
      ((p.stepEn = false ∧ p.ldValid = false ∧ t = s) ∨ (p.stepEn = true ∧ p.ldValid = false ∧ step s = .next t) ∨
        (p.stepEn = false ∧ p.ldValid = true ∧ s.runState = .idle ∧ t = s.pokeDram p.ldAddr p.ldData) ∨
        (p.stepEn = true ∧ p.ldValid = true ∧ s.runState = .idle ∧
          ((loadFirst = true ∧ step (s.pokeDram p.ldAddr p.ldData) = .next t) ∨
            (loadFirst = false ∧ ∃ u, step s = .next u ∧ t = u.pokeDram p.ldAddr p.ldData))))) := by
  unfold clockEdge at h
  split at h
  · cases h
    exact .inl ⟨‹_›, rfl⟩
  · refine .inr ⟨by simp_all, ?_⟩
    split at h
    · cases h
      exact .inl ⟨‹_›, ‹_›, rfl⟩
    · exact .inr (.inl ⟨‹_›, ‹_›, h⟩)
    · exact .inr (.inr (.inl ⟨‹_›, ‹_›, hostLoadWord_next h⟩))
    · obtain ⟨hi, h⟩ := inIdle_next h
      refine .inr (.inr (.inr ⟨‹_›, ‹_›, hi, ?_⟩))
      split at h
      · exact .inl ⟨‹_›, h⟩
      · exact .inr ⟨by simp_all, withWord_next h⟩

/-! ## What a load changes -/

/-- The loader writes DRAM and nothing else. -/
theorem loadWords_frame (bytes : List Byte) (n : Nat) (s : State) :
    ∃ d, loadWords bytes n s = { s with chain := { s.chain with dram := d } } ∧ (s.chain.dram.wf = true → d.wf = true) := by
  fun_induction loadWords bytes n s with
  | case1 b0 b1 b2 b3 rest n s ih =>
    obtain ⟨d, h1, h2⟩ := ih
    exact ⟨d, h1, fun hw => h2 (Dram.set_wf 0 _ _ hw)⟩
  | case2 => exact ⟨_, rfl, id⟩

/-- So does writing a list of words. -/
theorem pokeAll_frame (l : List (Word × Word)) (s : State) :
    ∃ d, pokeAll l s = { s with chain := { s.chain with dram := d } } ∧ (s.chain.dram.wf = true → d.wf = true) ∧
      ∀ a : Word, (∀ e ∈ l, e.1 ≠ a) → s.chain.dram.wf = true →
        Memory.readWord d.mem a.toNat = Memory.readWord s.chain.dram.mem a.toNat := by
  induction l generalizing s with
  | nil => exact ⟨_, rfl, id, fun _ _ _ => rfl⟩
  | cons e l ih =>
    obtain ⟨d, h1, h2, h3⟩ := ih (s.pokeDram e.1 e.2)
    refine ⟨d, h1, fun hw => h2 (Dram.set_wf 0 _ _ hw), fun a ha hw => ?_⟩
    rw [h3 a (fun e' he => ha e' (List.mem_cons_of_mem _ he)) (Dram.set_wf 0 _ _ hw)]
    have hne : a.toNat ≠ e.1.toNat := fun h => ha e (List.mem_cons_self ..) (BitVec.eq_of_toNat_eq h.symm)
    rw [State.pokeDram_chain, Dram.set_mem, Memory.readWord_writeWord _ _ _ ((Dram.wf_iff _).1 hw).1, if_neg hne]

/-- Everything an image load that answers can have done. -/
theorem hostLoadImage_cases {input : ImageInput} {left : List (Word × Word)} {s : State} {x : Loaded}
    (h : hostLoadImage input left s = .next x) :
    s.runState = .idle ∧ s.loadFailed = false ∧ s.allLinesInvalid = true ∧
      ((input.wellFormed = false ∧ x = { state := s.partlyLoaded input left, error := some .loadError }) ∨
        (input.wellFormed = true ∧ x = { state := loadWords input.bytes 0 s, error := none })) := by
  obtain ⟨h1, h2, h3, h⟩ := whenLoadable_next h
  refine ⟨h1, h2, h3, ?_⟩
  split at h
  · cases h
    exact .inl ⟨‹_›, rfl⟩
  · split at h
    · cases h
    · cases h
      exact .inr ⟨by simp_all, rfl⟩

end Sys2Proof.Machine
end

