-- ==== Sys2Proof/Laws/Step.lean ====
section
/-!
SUPPORT. Sys2Proof/Laws/Step.lean: the stage operations of every instruction in one table, so that a proof about `exec`
follows the shape of an instruction and not its name; and what each action of a step, and a step, can do.
-/

namespace Sys2Proof.Machine

/-! ## The stage operations by instruction -/

/-- The four stage operations of each instruction, as its meaning gives them to `runStage`. -/
def opsOf (i : Instr) (c : Config) : StageOps :=
  match i with
  | .addu rd rs1 rs2 =>
    { decode := decodeRegReg rd rs1 rs2, execute := executeBinary aluAdd,
      accessMemory := accessNothing, writeBack := writeResult }
  | .addui rd rs1 imm9 =>
    { decode := decodeRegImm rd rs1 (zext imm9), execute := executeBinary aluAdd,
      accessMemory := accessNothing, writeBack := writeResult }
  | .adds rd rs1 rs2 =>
    { decode := decodeRegReg rd rs1 rs2, execute := executeBinary aluAdd,
      accessMemory := accessNothing, writeBack := writeResult }
  | .addsi rd rs1 imm9 =>
    { decode := decodeRegImm rd rs1 (sext imm9), execute := executeBinary aluAdd,
      accessMemory := accessNothing, writeBack := writeResult }
  | .subu rd rs1 rs2 =>
    { decode := decodeRegReg rd rs1 rs2, execute := executeBinary aluSub,
      accessMemory := accessNothing, writeBack := writeResult }
  | .subui rd rs1 imm9 =>
    { decode := decodeRegImm rd rs1 (zext imm9), execute := executeBinary aluSub,
      accessMemory := accessNothing, writeBack := writeResult }
  | .subs rd rs1 rs2 =>
    { decode := decodeRegReg rd rs1 rs2, execute := executeBinary aluSub,
      accessMemory := accessNothing, writeBack := writeResult }
  | .subsi rd rs1 imm9 =>
    { decode := decodeRegImm rd rs1 (sext imm9), execute := executeBinary aluSub,
      accessMemory := accessNothing, writeBack := writeResult }
  | .mulu rd rs1 rs2 =>
    { decode := decodeRegReg rd rs1 rs2, execute := executeBinary aluMul,
      accessMemory := accessNothing, writeBack := writeResult }
  | .mului rd rs1 imm9 =>
    { decode := decodeRegImm rd rs1 (zext imm9), execute := executeBinary aluMul,
      accessMemory := accessNothing, writeBack := writeResult }
  | .muls rd rs1 rs2 =>
    { decode := decodeRegReg rd rs1 rs2, execute := executeBinary aluMul,
      accessMemory := accessNothing, writeBack := writeResult }
  | .mulsi rd rs1 imm9 =>
    { decode := decodeRegImm rd rs1 (sext imm9), execute := executeBinary aluMul,
      accessMemory := accessNothing, writeBack := writeResult }
  | .divu rd rs1 rs2 =>
    { decode := decodeRegReg rd rs1 rs2, execute := executeDivide aluDivU,
      accessMemory := accessNothing, writeBack := writeResult }
  | .divui rd rs1 imm9 =>
    { decode := decodeRegImm rd rs1 (zext imm9), execute := executeDivide aluDivU,
      accessMemory := accessNothing, writeBack := writeResult }
  | .divs rd rs1 rs2 =>
    { decode := decodeRegReg rd rs1 rs2, execute := executeDivide aluDivS,
      accessMemory := accessNothing, writeBack := writeResult }
  | .divsi rd rs1 imm9 =>
    { decode := decodeRegImm rd rs1 (sext imm9), execute := executeDivide aluDivS,
      accessMemory := accessNothing, writeBack := writeResult }
  | .cmpu rs1 rs2 =>
    { decode := decodeCompare rs1 rs2, execute := executeNothing,
      accessMemory := accessNothing, writeBack := writeCompare compareUnsigned }
  | .cmps rs1 rs2 =>
    { decode := decodeCompare rs1 rs2, execute := executeNothing,
      accessMemory := accessNothing, writeBack := writeCompare compareSigned }
  | .asl rd rs =>
    { decode := decodeRegReg rd rd rs, execute := executeBinary aluShl,
      accessMemory := accessNothing, writeBack := writeResult }
  | .asli rd imm14 =>
    { decode := decodeRegImm rd rd (zext imm14), execute := executeBinary aluShl,
      accessMemory := accessNothing, writeBack := writeResult }
  | .asr rd rs =>
    { decode := decodeRegReg rd rd rs, execute := executeBinary aluShrA,
      accessMemory := accessNothing, writeBack := writeResult }
  | .asri rd imm14 =>
    { decode := decodeRegImm rd rd (zext imm14), execute := executeBinary aluShrA,
      accessMemory := accessNothing, writeBack := writeResult }
  | .lsl rd rs =>
    { decode := decodeRegReg rd rd rs, execute := executeBinary aluShl,
      accessMemory := accessNothing, writeBack := writeResult }
  | .lsli rd imm14 =>
    { decode := decodeRegImm rd rd (zext imm14), execute := executeBinary aluShl,
      accessMemory := accessNothing, writeBack := writeResult }
  | .lsr rd rs =>
    { decode := decodeRegReg rd rd rs, execute := executeBinary aluShrL,
      accessMemory := accessNothing, writeBack := writeResult }
  | .lsri rd imm14 =>
    { decode := decodeRegImm rd rd (zext imm14), execute := executeBinary aluShrL,
      accessMemory := accessNothing, writeBack := writeResult }
  | .and rd rs1 rs2 =>
    { decode := decodeRegReg rd rs1 rs2, execute := executeBinary aluAnd,
      accessMemory := accessNothing, writeBack := writeResult }
  | .andi rd rs1 imm9 =>
    { decode := decodeRegImm rd rs1 (zext imm9), execute := executeBinary aluAnd,
      accessMemory := accessNothing, writeBack := writeResult }
  | .or rd rs1 rs2 =>
    { decode := decodeRegReg rd rs1 rs2, execute := executeBinary aluOr,
      accessMemory := accessNothing, writeBack := writeResult }
  | .ori rd rs1 imm9 =>
    { decode := decodeRegImm rd rs1 (zext imm9), execute := executeBinary aluOr,
      accessMemory := accessNothing, writeBack := writeResult }
  | .xor rd rs1 rs2 =>
    { decode := decodeRegReg rd rs1 rs2, execute := executeBinary aluXor,
      accessMemory := accessNothing, writeBack := writeResult }
  | .xori rd rs1 imm9 =>
    { decode := decodeRegImm rd rs1 (zext imm9), execute := executeBinary aluXor,
      accessMemory := accessNothing, writeBack := writeResult }
  | .not rd rs =>
    { decode := decodeMove rd rs, execute := executeNothing,
      accessMemory := accessNothing, writeBack := writeOfA aluNot }
  | .mov rd rs =>
    { decode := decodeMove rd rs, execute := executeNothing,
      accessMemory := accessNothing, writeBack := writeOfA id }
  | .nop =>
    { decode := decodeNothing, execute := executeNothing,
      accessMemory := accessNothing, writeBack := writeNothing }
  | .ldr rd rs =>
    { decode := decodeLoad rd rs, execute := executeNothing,
      accessMemory := accessLoad c, writeBack := writeResult }
  | .ldri rd imm17 =>
    { decode := decodeLoadRel rd imm17, execute := executeNothing,
      accessMemory := accessLoad c, writeBack := writeResult }
  | .str rv rs =>
    { decode := decodeStore rv rs, execute := executeNothing,
      accessMemory := accessStore c, writeBack := writeNothing }
  | .stri rv imm17 =>
    { decode := decodeStoreRel rv imm17, execute := executeNothing,
      accessMemory := accessStore c, writeBack := writeNothing }
  | .jmp rs _ =>
    { decode := decodeTarget rs, execute := executeNothing,
      accessMemory := accessNothing, writeBack := writeJump condTaken jumpTo }
  | .jmpi imm22 _ =>
    { decode := decodeTargetRel imm22, execute := executeNothing,
      accessMemory := accessNothing, writeBack := writeJump condTaken jumpTo }
  | .jmps rs _ =>
    { decode := decodeTarget rs, execute := executeNothing,
      accessMemory := accessNothing, writeBack := writeJump condTaken linkAndJump }
  | .jmpsi imm22 _ =>
    { decode := decodeTargetRel imm22, execute := executeNothing,
      accessMemory := accessNothing, writeBack := writeJump condTaken linkAndJump }
  | .sih rs =>
    { decode := decodeHandler rs, execute := executeNothing,
      accessMemory := accessNothing, writeBack := writeHandler }
  | .int imm22 =>
    { decode := decodeCode imm22, execute := executeNothing,
      accessMemory := accessRecordCode c, writeBack := fun _ x => .next (enterInterrupt x) }
  | .rfi =>
    { decode := decodeNothing, execute := executeNothing,
      accessMemory := accessNothing, writeBack := fun _ x => .next (returnFromInterrupt x) }

/-- `exec` performs one stage operation of the instruction. -/
theorem exec_eq_runStage (i : Instr) (s : State) : exec i s = runStage i (opsOf i s.config) s := by
  cases i <;> rfl

/-! ## The actions of a step -/

/-- `exec` never answers a fault: an `Err` of a stage operation is taken. -/
theorem exec_ne_fault (i : Instr) (s : State) (f : Fault) : exec i s ≠ .fault f := by
  rw [exec_eq_runStage]
  exact runStage_ne_fault _ _ _ _

theorem perform_next {act next : State → Host.Outcome State Fault Refusal} {s t : State} (h : act s = .next t)
    (ht : t.runState ≠ .faulted) : perform act next s = next t := by
  simp only [perform, h, if_neg ht]

theorem perform_taken {act next : State → Host.Outcome State Fault Refusal} {s t : State} (h : act s = .next t)
    (ht : t.runState = .faulted) : perform act next s = .next t := by
  simp only [perform, h, if_pos ht]

/-- Everything a performed action can lead to. -/
theorem perform_cases {act next : State → Host.Outcome State Fault Refusal} {s u : State}
    (h : perform act next s = .next u) :
    (∃ t, act s = .next t ∧ t.runState ≠ .faulted ∧ next t = .next u) ∨ (act s = .next u ∧ u.runState = .faulted) := by
  unfold perform at h
  split at h
  · rename_i t ht
    split at h
    · rename_i hf
      cases h
      exact .inr ⟨ht, hf⟩
    · rename_i hf
      exact .inl ⟨t, ht, hf, h⟩
  · cases h
  · cases h

theorem actWriteBack_empty {s : State} (h : s.slotM = none) :
    actWriteBack s = .next { s with slotW := none, stageOp := .writeBack } := by
  simp only [actWriteBack, h]

theorem actWriteBack_filled {s : State} {r : InFlight} (h : s.slotM = some r) :
    actWriteBack s = exec r.op { s with stageOp := .writeBack } := by
  simp only [actWriteBack, h]

theorem actAccessMemory_empty {s : State} (h : s.slotX = none) :
    actAccessMemory s = .next { s with slotM := none, stageOp := .accessMemory } := by
  simp only [actAccessMemory, h]

theorem actAccessMemory_filled {s : State} {r : InFlight} (h : s.slotX = some r) :
    actAccessMemory s = exec r.op { s with stageOp := .accessMemory } := by
  simp only [actAccessMemory, h]

theorem actExecute_empty {s : State} (h : s.slotD = none) :
    actExecute s = .next { s with slotX := none, stageOp := .execute } := by
  simp only [actExecute, h]

theorem actExecute_filled {s : State} {r : InFlight} (h : s.slotD = some r) :
    actExecute s = exec r.op { s with stageOp := .execute } := by
  simp only [actExecute, h]

theorem actDecode_empty {s : State} (h : s.slotF = none) :
    actDecode s = .next { s with slotD := none, stageOp := .decode } := by
  simp only [actDecode, h]

theorem actDecode_legal {s : State} {w : Word} {i : Instr} (h : s.slotF = some w) (hi : decodeWord w = .ok i) :
    actDecode s = exec i { s with stageOp := .decode } := by
  simp only [actDecode, h, hi]

theorem actDecode_illegal {s : State} {w : Word} {e : DecodeRefusal} (h : s.slotF = some w)
    (he : decodeWord w = .error e) : actDecode s = .next (s.abort (.decodeError w)) := by
  simp only [actDecode, h, he]

theorem actFetch_wait {s : State} {n : Nat} {w : Word} {ch : Chain}
    (h : s.chain.memRead s.config (s.reg Reg.pc) = (.wait n w, ch)) :
    actFetch s =
      .next { s with
        chain := ch, cycleCount := s.cycleCount + BitVec.ofNat 64 n, slotF := if w = 0#32 then none else some w } := by
  simp only [actFetch, h]

/-- The fetch always completes over this DRAM (R54). -/
theorem actFetch_next (s : State) :
    ∃ n w ch, s.chain.memRead s.config (s.reg Reg.pc) = (.wait n w, ch) ∧
      actFetch s =
        .next { s with
          chain := ch, cycleCount := s.cycleCount + BitVec.ofNat 64 n, slotF := if w = 0#32 then none else some w } := by
  obtain ⟨n, w, ch, h⟩ := memRead_waits s.config s.chain (s.reg Reg.pc)
  exact ⟨n, w, ch, h, actFetch_wait h⟩

/-! ## A step -/

theorem step_active {s : State} (h : s.active = true) : step s = stepActions s := by
  unfold step stepCall
  cases hr : s.runState <;> simp_all [State.active]

theorem step_halted {s : State} (h : s.runState = .halted) : step s = .next s := by
  simp only [step, stepCall, h]

theorem step_faulted {s : State} (h : s.runState = .faulted) : step s = .next s := by
  simp only [step, stepCall, h]

end Sys2Proof.Machine
end

