-- ==== Sys2Proof/Tests/Slice0.lean ====
section
/-!
SUPPORT. Sys2Proof/Tests/Slice0.lean: the model's own tests. Expected words and values are those of the examples of the
spec's instruction rules (40_load_store.md to 44_interrupt_nop.md) and of 95_test_vectors.md, or worked by hand from its
tables; and, for every statement that has hypotheses, a named witness that meets them.
-/

namespace Sys2Proof.Tests.Slice0

open Sys2Proof Sys2Proof.Machine

/-! ## What well-formedness refuses -/

theorem test_wellFormed_refuses_sentinel : (Instr.addu 0#5 0#5 0#5).wellFormed = false := by decide
theorem test_wellFormed_sentinel_word : encode (.addu 0#5 0#5 0#5) = 0#32 := by decide
theorem test_wellFormed_refuses_line_count_zero : (CacheParams.mk 0 1).wellFormed = false := by decide
theorem test_wellFormed_refuses_line_count_three : (CacheParams.mk 3 1).wellFormed = false := by decide
theorem test_wellFormed_accepts_line_count_one : (CacheParams.mk 1 1).wellFormed = true := by decide
theorem test_wellFormed_refuses_four_levels :
    (Config.mk [⟨1, 1⟩, ⟨1, 1⟩, ⟨1, 1⟩, ⟨1, 1⟩] 100 0#32).wellFormed = false := by decide
theorem test_wellFormed_refuses_bad_level : (Config.mk [⟨4, 1⟩, ⟨12, 10⟩] 100 0#32).wellFormed = false := by decide
theorem test_wellFormed_default : Config.default.wellFormed = true := by decide
theorem test_wellFormed_refuses_image_of_seven_bytes : imageWellFormed (List.replicate 7 0#8) = false := by decide

/-! ## Decoding: the word of each rule's example, written out field by field from R90 and R94 to R96 -/

theorem test_decode_addu : decodeWord 0b0000_00010_00001_00011_000000_00_00000#32 = .ok (.addu 3#5 1#5 2#5) := by decide
theorem test_decode_adds : decodeWord 0b0000_00010_00001_00011_000010_00_00000#32 = .ok (.adds 3#5 1#5 2#5) := by decide
theorem test_decode_subu : decodeWord 0b0000_00010_00001_00011_000100_00_00000#32 = .ok (.subu 3#5 1#5 2#5) := by decide
theorem test_decode_subs : decodeWord 0b0000_00010_00001_00011_000110_00_00000#32 = .ok (.subs 3#5 1#5 2#5) := by decide
theorem test_decode_mulu : decodeWord 0b0000_00010_00001_00011_001000_00_00000#32 = .ok (.mulu 3#5 1#5 2#5) := by decide
theorem test_decode_muls : decodeWord 0b0000_00010_00001_00011_001010_00_00000#32 = .ok (.muls 3#5 1#5 2#5) := by decide
theorem test_decode_divu : decodeWord 0b0000_00010_00001_00011_001100_00_00000#32 = .ok (.divu 3#5 1#5 2#5) := by decide
theorem test_decode_divs : decodeWord 0b0000_00010_00001_00011_001110_00_00000#32 = .ok (.divs 3#5 1#5 2#5) := by decide
theorem test_decode_and : decodeWord 0b0000_00010_00001_00011_011010_00_00000#32 = .ok (.and 3#5 1#5 2#5) := by decide
theorem test_decode_or : decodeWord 0b0000_00010_00001_00011_011100_00_00000#32 = .ok (.or 3#5 1#5 2#5) := by decide
theorem test_decode_xor : decodeWord 0b0000_00010_00001_00011_011110_00_00000#32 = .ok (.xor 3#5 1#5 2#5) := by decide
theorem test_decode_addui : decodeWord 0b111111111_00001_00011_000001_00_00000#32 = .ok (.addui 3#5 1#5 511#9) := by decide
theorem test_decode_addsi : decodeWord 0b111111111_00001_00011_000011_00_00000#32 = .ok (.addsi 3#5 1#5 511#9) := by decide
theorem test_decode_subui : decodeWord 0b111111111_00001_00011_000101_00_00000#32 = .ok (.subui 3#5 1#5 511#9) := by decide
theorem test_decode_subsi : decodeWord 0b100000000_00001_00011_000111_00_00000#32 = .ok (.subsi 3#5 1#5 256#9) := by decide
theorem test_decode_mului : decodeWord 0b111111111_00001_00011_001001_00_00000#32 = .ok (.mului 3#5 1#5 511#9) := by decide
theorem test_decode_mulsi : decodeWord 0b111111110_00001_00011_001011_00_00000#32 = .ok (.mulsi 3#5 1#5 510#9) := by decide
theorem test_decode_divui : decodeWord 0b000001010_00001_00011_001101_00_00000#32 = .ok (.divui 3#5 1#5 10#9) := by decide
theorem test_decode_divsi : decodeWord 0b111110110_00001_00011_001111_00_00000#32 = .ok (.divsi 3#5 1#5 502#9) := by decide
theorem test_decode_andi : decodeWord 0b111111111_00001_00011_011011_00_00000#32 = .ok (.andi 3#5 1#5 511#9) := by decide
theorem test_decode_ori : decodeWord 0b111111111_00001_00011_011101_00_00000#32 = .ok (.ori 3#5 1#5 511#9) := by decide
theorem test_decode_xori : decodeWord 0b111111111_00001_00011_011111_00_00000#32 = .ok (.xori 3#5 1#5 511#9) := by decide
theorem test_decode_cmpu : decodeWord 0b000000000_00010_00001_010000_00_00000#32 = .ok (.cmpu 1#5 2#5) := by decide
theorem test_decode_cmps : decodeWord 0b000000000_00010_00001_010001_00_00000#32 = .ok (.cmps 1#5 2#5) := by decide
theorem test_decode_asl : decodeWord 0b000000000_00010_00011_010010_00_00000#32 = .ok (.asl 3#5 2#5) := by decide
theorem test_decode_asr : decodeWord 0b000000000_00010_00011_010100_00_00000#32 = .ok (.asr 3#5 2#5) := by decide
theorem test_decode_lsl : decodeWord 0b000000000_00010_00011_010110_00_00000#32 = .ok (.lsl 3#5 2#5) := by decide
theorem test_decode_lsr : decodeWord 0b000000000_00010_00011_011000_00_00000#32 = .ok (.lsr 3#5 2#5) := by decide
theorem test_decode_not : decodeWord 0b000000000_00001_00011_100000_00_00000#32 = .ok (.not 3#5 1#5) := by decide
theorem test_decode_mov : decodeWord 0b000000000_00001_00011_100001_00_00000#32 = .ok (.mov 3#5 1#5) := by decide
theorem test_decode_asli : decodeWord 0b00000000000001_00011_010011_00_00000#32 = .ok (.asli 3#5 1#14) := by decide
theorem test_decode_asri : decodeWord 0b00000000000100_00011_010101_00_00000#32 = .ok (.asri 3#5 4#14) := by decide
theorem test_decode_lsli : decodeWord 0b00000000011111_00011_010111_00_00000#32 = .ok (.lsli 3#5 31#14) := by decide
theorem test_decode_lsri : decodeWord 0b00000000011111_00011_011001_00_00000#32 = .ok (.lsri 3#5 31#14) := by decide
theorem test_decode_nop : decodeWord 0b0000000000000000000_100010_00_00000#32 = .ok .nop := by decide
theorem test_decode_ldr : decodeWord 0b000000000000_01010_00001_000_01_00000#32 = .ok (.ldr 1#5 10#5) := by decide
theorem test_decode_ldri : decodeWord 0b00000000000011101_00111_001_01_00000#32 = .ok (.ldri 7#5 29#17) := by decide
theorem test_decode_str : decodeWord 0b000000000000_00101_00011_010_01_00000#32 = .ok (.str 3#5 5#5) := by decide
theorem test_decode_stri : decodeWord 0b00000000000011111_00100_011_01_00000#32 = .ok (.stri 4#5 31#17) := by decide
theorem test_decode_jmp : decodeWord 0b00000000000000000_00101_000_10_00001#32 = .ok (.jmp 5#5 1#5) := by decide
theorem test_decode_jmpi : decodeWord 0b1111111111111111111001_001_10_00010#32 = .ok (.jmpi 4194297#22 2#5) := by decide
theorem test_decode_jmps : decodeWord 0b00000000000000000_01010_010_10_00000#32 = .ok (.jmps 10#5 0#5) := by decide
theorem test_decode_jmpsi : decodeWord 0b0000000000000000001110_011_10_00011#32 = .ok (.jmpsi 14#22 3#5) := by decide
theorem test_decode_sih : decodeWord 0b00000000000000000_01010_100_10_00000#32 = .ok (.sih 10#5) := by decide
theorem test_decode_int : decodeWord 0b0000000000000000000111_101_10_00000#32 = .ok (.int 7#22) := by decide
theorem test_decode_rfi : decodeWord 0b0000000000000000000000_110_10_00000#32 = .ok .rfi := by decide

/-- The words of the spec's own examples, in its table order of families. -/
theorem test_encode_examples :
    encode (.addu 3#5 1#5 2#5) = 0x01046000#32 ∧ encode (.subsi 3#5 1#5 256#9) = 0x80046380#32 ∧
      encode (.cmps 1#5 2#5) = 0x00082880#32 ∧ encode (.asri 3#5 4#14) = 0x00106A80#32 ∧
      encode (.xori 3#5 1#5 511#9) = 0xFF846F80#32 ∧ encode (.not 3#5 1#5) = 0x00047000#32 ∧
      encode (.ldri 1#5 (BitVec.ofInt 17 (-3))) = 0xFFFE84A0#32 ∧ encode (.stri 4#5 31#17) = 0x000F91A0#32 ∧
      encode (.jmpsi 14#22 3#5) = 0x000039C3#32 ∧ encode (.int 7#22) = 0x00001EC0#32 ∧ encode .rfi = 0x00000340#32 := by
  decide
theorem test_decode_refuses_graphics : decodeWord 0x00000060#32 = .error .reservedGraphics := by decide
theorem test_decode_refuses_alu_35 : decodeWord 0x00001180#32 = .error (.unassignedAlu 35#6) := by decide
theorem test_decode_refuses_alu_63 : decodeWord 0x00001F80#32 = .error (.unassignedAlu 63#6) := by decide
theorem test_decode_refuses_memory_4 : decodeWord 0x00000220#32 = .error (.unassignedMemory 4#3) := by decide
theorem test_decode_refuses_memory_7 : decodeWord 0x000003A0#32 = .error (.unassignedMemory 7#3) := by decide
theorem test_decode_refuses_control_7 : decodeWord 0x000003C0#32 = .error (.unassignedControl 7#3) := by decide
theorem test_decode_ignores_unused_bits : decodeWord 0xF104601F#32 = .ok (.addu 3#5 1#5 2#5) := by decide

/-! ## One instruction alone, from reset with some registers preset: each rule's own example -/

/-- Reset with registers preset. -/
def small (presets : List (Reg × Word)) : State := presets.foldl (fun s p => s.setReg p.1 p.2) State.reset

/-- A register after the instruction alone. -/
def regAfter (i : Instr) (presets : List (Reg × Word)) (q : Reg) : Option Word :=
  match passage i (encode i) (small presets) with
  | .next t => if t.runState = .faulted then none else some (t.reg q)
  | .fault _ => none
  | .refused _ => none

/-- A word of memory after the instruction alone, from memory with one word set. -/
def memAfter (i : Instr) (presets : List (Reg × Word)) (a : Word) : Option Word :=
  match passage i (encode i) (small presets) with
  | .next t => some (t.mem a)
  | .fault _ => none
  | .refused _ => none

theorem test_addu : regAfter (.addu 3#5 1#5 2#5) [(1#5, 0xffffffff#32), (2#5, 2#32)] 3#5 = some 1#32 := by decide
theorem test_addui : regAfter (.addui 3#5 1#5 511#9) [(1#5, 10#32)] 3#5 = some 521#32 := by decide
theorem test_adds : regAfter (.adds 3#5 1#5 2#5) [(1#5, 0x7fffffff#32), (2#5, 1#32)] 3#5 = some 0x80000000#32 := by decide
theorem test_addsi : regAfter (.addsi 3#5 1#5 511#9) [(1#5, 10#32)] 3#5 = some 9#32 := by decide
theorem test_subu : regAfter (.subu 3#5 1#5 2#5) [(1#5, 3#32), (2#5, 5#32)] 3#5 = some 0xfffffffe#32 := by decide
theorem test_subui : regAfter (.subui 3#5 1#5 511#9) [(1#5, 10#32)] 3#5 = some 0xfffffe0b#32 := by decide
theorem test_subs : regAfter (.subs 3#5 1#5 2#5) [(1#5, 0x80000000#32), (2#5, 1#32)] 3#5 = some 0x7fffffff#32 := by decide
theorem test_subsi : regAfter (.subsi 3#5 1#5 256#9) [(1#5, 10#32)] 3#5 = some 266#32 := by decide
theorem test_mulu : regAfter (.mulu 3#5 1#5 2#5) [(1#5, 0x12345678#32), (2#5, 0x9abcdef0#32)] 3#5 = some 0x242d2080#32 := by decide
theorem test_mului : regAfter (.mului 3#5 1#5 511#9) [(1#5, 3#32)] 3#5 = some 1533#32 := by decide
theorem test_muls : regAfter (.muls 3#5 1#5 2#5) [(1#5, 0xfffffffe#32), (2#5, 3#32)] 3#5 = some 0xfffffffa#32 := by decide
theorem test_mulsi : regAfter (.mulsi 3#5 1#5 510#9) [(1#5, 3#32)] 3#5 = some 0xfffffffa#32 := by decide
theorem test_divu : regAfter (.divu 3#5 1#5 2#5) [(1#5, 0xfffffff9#32), (2#5, 2#32)] 3#5 = some 0x7ffffffc#32 := by decide
theorem test_divui : regAfter (.divui 3#5 1#5 10#9) [(1#5, 1000#32)] 3#5 = some 100#32 := by decide
theorem test_divs : regAfter (.divs 3#5 1#5 2#5) [(1#5, 0xfffffff9#32), (2#5, 2#32)] 3#5 = some 0xfffffffd#32 := by decide
theorem test_divsi : regAfter (.divsi 3#5 1#5 502#9) [(1#5, 0xfffffc18#32)] 3#5 = some 100#32 := by decide
theorem test_cmpu : regAfter (.cmpu 1#5 2#5) [(1#5, 0xffffffff#32), (2#5, 1#32)] Reg.status = some 2#32 := by decide
theorem test_cmps : regAfter (.cmps 1#5 2#5) [(1#5, 0xffffffff#32), (2#5, 1#32)] Reg.status = some 3#32 := by decide
theorem test_asl : regAfter (.asl 3#5 2#5) [(3#5, 0x80000001#32), (2#5, 1#32)] 3#5 = some 2#32 := by decide
theorem test_asli : regAfter (.asli 3#5 1#14) [(3#5, 0x80000001#32)] 3#5 = some 2#32 := by decide
theorem test_asr : regAfter (.asr 3#5 2#5) [(3#5, 0x80000000#32), (2#5, 4#32)] 3#5 = some 0xf8000000#32 := by decide
theorem test_asri : regAfter (.asri 3#5 4#14) [(3#5, 0x80000000#32)] 3#5 = some 0xf8000000#32 := by decide
theorem test_lsl : regAfter (.lsl 3#5 2#5) [(3#5, 1#32), (2#5, 31#32)] 3#5 = some 0x80000000#32 := by decide
theorem test_lsli : regAfter (.lsli 3#5 31#14) [(3#5, 1#32)] 3#5 = some 0x80000000#32 := by decide
theorem test_lsr : regAfter (.lsr 3#5 2#5) [(3#5, 0x80000000#32), (2#5, 31#32)] 3#5 = some 1#32 := by decide
theorem test_lsri : regAfter (.lsri 3#5 31#14) [(3#5, 0x80000000#32)] 3#5 = some 1#32 := by decide
theorem test_and : regAfter (.and 3#5 1#5 2#5) [(1#5, 0xf0f0f0f0#32), (2#5, 0xff00ff0#32)] 3#5 = some 0xf000f0#32 := by decide
theorem test_andi : regAfter (.andi 3#5 1#5 511#9) [(1#5, 0xf0f0f0f0#32)] 3#5 = some 240#32 := by decide
theorem test_or : regAfter (.or 3#5 1#5 2#5) [(1#5, 0xf0f0f0f0#32), (2#5, 0xff00ff0#32)] 3#5 = some 0xfff0fff0#32 := by decide
theorem test_ori : regAfter (.ori 3#5 1#5 511#9) [(1#5, 0xf0f0f0f0#32)] 3#5 = some 0xf0f0f1ff#32 := by decide
theorem test_xor : regAfter (.xor 3#5 1#5 2#5) [(1#5, 0xf0f0f0f0#32), (2#5, 0xff00ff0#32)] 3#5 = some 0xff00ff00#32 := by decide
theorem test_xori : regAfter (.xori 3#5 1#5 511#9) [(1#5, 0xf0f0f0f0#32)] 3#5 = some 0xf0f0f10f#32 := by decide
theorem test_not : regAfter (.not 3#5 1#5) [(1#5, 0xdeadbeef#32)] 3#5 = some 0x21524110#32 := by decide
theorem test_mov : regAfter (.mov 3#5 1#5) [(1#5, 0xdeadbeef#32)] 3#5 = some 0xdeadbeef#32 := by decide
theorem test_jmp : regAfter (.jmp 5#5 1#5) [(5#5, 100#32), (Reg.status, 1#32)] Reg.pc = some 100#32 := by decide
theorem test_jmpi : regAfter (.jmpi 4194297#22 2#5) [(Reg.pc, 10#32), (Reg.status, 2#32)] Reg.pc = some 4#32 := by decide
theorem test_jmps : regAfter (.jmps 10#5 0#5) [(10#5, 20#32), (Reg.pc, 8#32)] Reg.link = some 9#32 := by decide
theorem test_jmpsi : regAfter (.jmpsi 14#22 3#5) [(Reg.pc, 5#32), (Reg.status, 3#32)] Reg.pc = some 20#32 := by decide
theorem test_sih : regAfter (.sih 10#5) [(10#5, 16#32)] Reg.intHandler = some 16#32 := by decide
theorem test_int : regAfter (.int 7#22) [(Reg.intHandler, 16#32), (Reg.pc, 8#32)] Reg.intLink = some 9#32 := by decide
theorem test_rfi : regAfter (.rfi) [(Reg.intLink, 9#32)] Reg.pc = some 9#32 := by decide
theorem test_nop : regAfter (.nop) [(Reg.pc, 8#32)] Reg.pc = some 8#32 := by decide
theorem test_divs_overflow : regAfter (.divs 3#5 1#5 2#5) [(1#5, 0x80000000#32), (2#5, 0xffffffff#32)] 3#5 = some 0x80000000#32 := by decide
theorem test_asr_wide : regAfter (.asr 3#5 2#5) [(3#5, 0x80000000#32), (2#5, 32#32)] 3#5 = some 0xffffffff#32 := by decide
theorem test_lsl_wide : regAfter (.lsl 3#5 2#5) [(3#5, 0xffffffff#32), (2#5, 256#32)] 3#5 = some 0#32 := by decide
theorem test_jmp_not_taken : regAfter (.jmp 5#5 1#5) [(5#5, 100#32), (Reg.pc, 7#32), (Reg.status, 257#32)] Reg.pc = some 7#32 := by decide
theorem test_jmps_target : regAfter (.jmps 10#5 0#5) [(10#5, 20#32), (Reg.pc, 8#32)] Reg.pc = some 20#32 := by decide
theorem test_int_handler : regAfter (.int 7#22) [(Reg.intHandler, 16#32), (Reg.pc, 8#32)] Reg.pc = some 16#32 := by decide
theorem test_str : memAfter (.str 3#5 5#5) [(3#5, 123#32), (5#5, 40#32)] 40#32 = some 123#32 := by decide
theorem test_stri : memAfter (.stri 4#5 31#17) [(4#5, 2300#32), (Reg.pc, 9#32)] 41#32 = some 2300#32 := by decide
theorem test_int_code : memAfter (.int 7#22) [(Reg.intHandler, 16#32)] 0xFFFFFFFF#32 = some 7#32 := by decide

/-- A loaded word: `Mem(a) = v` before the instruction alone. -/
def loadAfter (i : Instr) (presets : List (Reg × Word)) (a v : Word) (q : Reg) : Option Word :=
  match passage i (encode i) ((small presets).pokeDram a v) with
  | .next t => some (t.reg q)
  | .fault _ => none
  | .refused _ => none

theorem test_ldr : loadAfter (.ldr 1#5 10#5) [(10#5, 10#32)] 10#32 43#32 1#5 = some 43#32 := by decide
theorem test_ldri : loadAfter (.ldri 7#5 29#17) [(Reg.pc, 11#32)] 41#32 2300#32 7#5 = some 2300#32 := by decide

/-! ## Reset and the host's hook -/

theorem test_reset_inv : State.reset.Inv = true := by decide
theorem test_reset_memory_wf : Memory.wf State.reset.chain.dram.mem = true := by decide

/-- The state a next state leads to (the old one otherwise). -/
def stateOr (s : State) (x : Host.Outcome State Fault Refusal) : State :=
  match x with
  | .next t => t
  | .fault _ => s
  | .refused _ => s

/-- `n` steps from `s`. -/
def after (n : Nat) (s : State) : State := stateOr s (runSteps n s)

/-- `exec`, `step` or a host action answered. -/
def isNext {α : Type} (x : Host.Outcome α Fault Refusal) : Bool :=
  match x with
  | .next _ => true
  | .fault _ => false
  | .refused _ => false

/-- A step that completed: a next state that is not FAULTED. -/
def completes (s : State) : Bool := isNext (step s) && decide ((stateOr s (step s)).runState ≠ .faulted)

theorem isNext_next {x : Host.Outcome State Fault Refusal} (s : State) (h : isNext x = true) : x = .next (stateOr s x) := by
  cases x <;> first | rfl | cases h

theorem completes_next {s : State} (h : completes s = true) : ∃ t, step s = .next t ∧ t.runState ≠ .faulted := by
  simp only [completes, Bool.and_eq_true, decide_eq_true_eq] at h
  exact ⟨_, isNext_next s h.1, h.2⟩

/-- The hook's word is the next one decoded: MOV x3, x1. -/
theorem test_withFetchWord :
    ((stateOr State.reset (step (State.reset.withFetchWord 32 0x00047080))).slotD.map fun r => r.op) =
      some (.mov 3#5 1#5) := by decide

/-! ## Witnesses: states that meet the hypotheses of the statements

`small` with a program at address 0, run for some steps. -/

/-- Words in DRAM from address `n` on. -/
def placed : List Word → Nat → State → State
  | [], _, s => s
  | w :: ws, n, s => placed ws (n + 1) (s.pokeDram (BitVec.ofNat 32 n) w)

/-- Reset of the instance `c` with registers preset and a program at address 0. -/
def loadedWith (c : Config) (presets : List (Reg × Word)) (program : List Instr) : State :=
  placed (program.map encode) 0 (presets.foldl (fun s p => s.setReg p.1 p.2) (State.resetWith c))

/-- The same for the default instance. -/
def loaded (presets : List (Reg × Word)) (program : List Instr) : State := loadedWith Config.default presets program

/-- Two cache levels. -/
def cached : Config := { levels := [⟨2, 1⟩, ⟨4, 10⟩], dramDelay := 100, intCodeAddr := 0xFFFFFFFF#32 }

/-- One record in every slot, at one stage operation. -/
def atStage (op : StageOp) (r : InFlight) : State :=
  { small [(1#5, 7#32), (2#5, 2#32), (5#5, 40#32), (Reg.status, 1#32)] with
    slotF := some r.word, slotD := some r, slotX := some r, slotM := some r, stageOp := op }

/-- A record of `i` with every field set, the condition `cond`, and second operand `b`. -/
def fullRecord (i : Instr) (cond : Cond) (b : Word) : InFlight :=
  { word := encode i, op := i, cond := cond, rd := some 3#5, a := some 7#32, b := some b, addr := some 40#32,
    res := some 9#32 }

/-- The hypotheses of the four stage shapes: every slot a stage reads is full, every field a shape reads is set, and
memory is in its form. -/
def meetsStages (r : InFlight) : Bool :=
  [StageOp.decode, .execute, .accessMemory, .writeBack].all fun op =>
    decide ((atStage op r).stageOp = op) && decide ((atStage op r).slotF = some r.word) &&
      decide ((atStage op r).slotD = some r) && decide ((atStage op r).slotX = some r) &&
      decide ((atStage op r).slotM = some r) && r.a.isSome && r.b.isSome && r.addr.isSome && r.rd.isSome &&
      r.res.isSome && (atStage op r).chain.ok (atStage op r).config

/-- The hypotheses of `WordsA3R`, `WordsA3I`, `WordsA2R` and `WordsA2I`. -/
def meetsAlu (op : BitVec 6) (w : Word) : Bool := decide (w.extractLsb' 5 2 = 0#2) && decide (w.extractLsb' 7 6 = op)
/-- The hypotheses of `WordsM`. -/
def meetsPattern (pattern : BitVec 5) (w : Word) : Bool := decide (w.extractLsb' 5 5 = pattern)

/-- A word the decoder refuses. -/
def illegal (w : Word) : Bool :=
  match decodeWord w with
  | .ok _ => false
  | .error _ => true

/-- O2: the boundary words of each clause, and one in slot.F. -/
theorem witness_IllegalWordsAreExactlyTheUnassignedPairs :
    [0x00000060#32, 0xFFFFFFFF#32, 0x00001180#32, 0x00001F80#32].all illegal = true ∧
      [0x00000220#32, 0x000003A0#32, 0x000003C0#32].all illegal = true ∧
      [0x00001100#32, 0x000001A0#32, 0x00000340#32].all (fun w => !illegal w) = true ∧
      (State.reset.fetched 0x60#32).slotF = some 0x60#32 := by decide
/-- O3. -/
theorem witness_UnusedBitsAreIgnored :
    decodeWord 0x01046000#32 = .ok (.addu 3#5 1#5 2#5) ∧
      0x01046000#32 &&& usedBits (.addu 3#5 1#5 2#5) = 0xF104601F#32 &&& usedBits (.addu 3#5 1#5 2#5) := by decide
/-- O6. -/
theorem witness_ResetLeavesTheTableValues :
    (PortIn.mk true true true 4#32 5#32).rst = true ∧ ((small []).abort (.decodeError 0x60#32)).runState = .faulted := by
  decide
/-- O7: each stage operation answers a next state, and a zero divisor is taken. -/
theorem witness_OnlyWriteBackWritesRegisters :
    (∀ op ∈ [StageOp.decode, .execute, .accessMemory, .writeBack],
      isNext (exec (.addu 3#5 1#5 2#5) (atStage op (fullRecord (.addu 3#5 1#5 2#5) 0#5 2#32))) = true) ∧
    isNext (exec (.divu 3#5 1#5 2#5) (atStage .execute (fullRecord (.divu 3#5 1#5 2#5) 0#5 0#32))) = true := by decide
/-- O8. -/
theorem witness_StatusIsWrittenByComparesAndDestinationsOnly :
    (fullRecord (.mov 3#5 1#5) 0#5 2#32).rd ≠ some Reg.status ∧
      (atStage .writeBack (fullRecord (.mov 3#5 1#5) 0#5 2#32)).slotM = some (fullRecord (.mov 3#5 1#5) 0#5 2#32) ∧
      isNext (exec (.mov 3#5 1#5) (atStage .writeBack (fullRecord (.mov 3#5 1#5) 0#5 2#32))) = true := by decide
/-- O9. -/
theorem witness_MoveAndNotRules :
    meetsAlu 33#6 0x00047080#32 = true ∧ meetsAlu 32#6 0x00047000#32 = true ∧
      ∀ i ∈ [Instr.mov 3#5 1#5, .not 3#5 1#5], meetsStages (fullRecord i 0#5 2#32) = true := by decide
/-- O10. -/
theorem witness_AddSubtractMultiplyRegisterRules :
    ∀ p ∈ [(0#6, Instr.addu 3#5 1#5 2#5), (2#6, .adds 3#5 1#5 2#5), (4#6, .subu 3#5 1#5 2#5), (6#6, .subs 3#5 1#5 2#5),
        (8#6, .mulu 3#5 1#5 2#5), (10#6, .muls 3#5 1#5 2#5)],
      meetsAlu p.1 (encode p.2) = true ∧ meetsStages (fullRecord p.2 0#5 2#32) = true := by decide
/-- O11. -/
theorem witness_AddSubtractMultiplyImmediateRules :
    ∀ p ∈ [(1#6, Instr.addui 3#5 1#5 2#9), (3#6, .addsi 3#5 1#5 2#9), (5#6, .subui 3#5 1#5 2#9),
        (7#6, .subsi 3#5 1#5 2#9), (9#6, .mului 3#5 1#5 2#9), (11#6, .mulsi 3#5 1#5 2#9)],
      meetsAlu p.1 (encode p.2) = true ∧ meetsStages (fullRecord p.2 0#5 2#32) = true := by decide
/-- O12: divisors other than 0, -1 among them. -/
theorem witness_DivideRules :
    ∀ p ∈ [(12#6, Instr.divu 3#5 1#5 2#5), (13#6, .divui 3#5 1#5 2#9), (14#6, .divs 3#5 1#5 2#5),
        (15#6, .divsi 3#5 1#5 2#9)],
      meetsAlu p.1 (encode p.2) = true ∧ meetsStages (fullRecord p.2 0#5 1#32) = true ∧
        meetsStages (fullRecord p.2 0#5 0xFFFFFFFF#32) = true := by decide
/-- O13. -/
theorem witness_DivideByZeroIsAnArithmeticError :
    ∀ i ∈ [Instr.divu 3#5 1#5 2#5, .divui 3#5 1#5 0#9, .divs 3#5 1#5 2#5, .divsi 3#5 1#5 0#9],
      meetsStages (fullRecord i 0#5 0#32) = true ∧ (fullRecord i 0#5 0#32).b = some 0#32 := by decide
/-- O14: both sides of the wrapping quotient. -/
theorem witness_DivisionMeetsTheLawsOfTheRule :
    (2#32 ≠ 0#32 ∧ ¬ (7#32 = 0x80000000#32 ∧ 2#32 = 0xFFFFFFFF#32)) ∧ 0xFFFFFFFF#32 ≠ 0#32 := by decide
/-- O15. -/
theorem witness_CompareRules :
    ∀ p ∈ [(16#6, Instr.cmpu 1#5 2#5), (17#6, .cmps 1#5 2#5)],
      meetsAlu p.1 (encode p.2) = true ∧ meetsStages (fullRecord p.2 0#5 2#32) = true := by decide
/-- O16. -/
theorem witness_ShiftRules :
    ∀ p ∈ [(18#6, Instr.asl 3#5 2#5), (19#6, .asli 3#5 2#14), (20#6, .asr 3#5 2#5), (21#6, .asri 3#5 2#14),
        (22#6, .lsl 3#5 2#5), (23#6, .lsli 3#5 2#14), (24#6, .lsr 3#5 2#5), (25#6, .lsri 3#5 2#14)],
      meetsAlu p.1 (encode p.2) = true ∧ meetsStages (fullRecord p.2 0#5 2#32) = true := by decide
/-- O17: the amounts where its clauses meet. -/
theorem witness_ShiftOperationsAreTheTable :
    (0#32).toNat < 32 ∧ (31#32).toNat < 32 ∧ 32 ≤ (32#32).toNat ∧ 32 ≤ (0xFFFFFFFF#32).toNat ∧
      meetsStages (fullRecord (.asl 3#5 2#5) 0#5 32#32) = true := by decide
/-- O18. -/
theorem witness_LogicRules :
    ∀ p ∈ [(26#6, Instr.and 3#5 1#5 2#5), (27#6, .andi 3#5 1#5 2#9), (28#6, .or 3#5 1#5 2#5), (29#6, .ori 3#5 1#5 2#9),
        (30#6, .xor 3#5 1#5 2#5), (31#6, .xori 3#5 1#5 2#9)],
      meetsAlu p.1 (encode p.2) = true ∧ meetsStages (fullRecord p.2 0#5 2#32) = true := by decide
/-- O19. -/
theorem witness_LoadRules :
    ∀ p ∈ [(0b00001#5, Instr.ldr 1#5 10#5), (0b00101#5, .ldri 1#5 10#17)],
      meetsPattern p.1 (encode p.2) = true ∧ meetsStages (fullRecord p.2 0#5 2#32) = true := by decide
/-- O20. -/
theorem witness_StoreRules :
    ∀ p ∈ [(0b01001#5, Instr.str 1#5 10#5), (0b01101#5, .stri 1#5 10#17)],
      meetsPattern p.1 (encode p.2) = true ∧ meetsStages (fullRecord p.2 0#5 2#32) = true := by decide

/-- The condition of a jump holds, and does not, in the state of `atStage`, whose status is 1. -/
theorem witness_fires (i : Instr) :
    Fires (fullRecord i 0#5 2#32) (atStage .writeBack (fullRecord i 0#5 2#32)).regs ∧
      Fires (fullRecord i 1#5 2#32) (atStage .writeBack (fullRecord i 1#5 2#32)).regs ∧
      ¬ Fires (fullRecord i 2#5 2#32) (atStage .writeBack (fullRecord i 2#5 2#32)).regs := by
  refine ⟨.inl rfl, .inr rfl, ?_⟩
  rintro (h | h)
  · exact absurd h (by decide : ¬ (2#5 : BitVec 5) = 0#5)
  · exact absurd h (by decide : ¬ (1#32 : Word) = 2#32)

/-- O21. -/
theorem witness_JumpRules :
    (∀ p ∈ [(0b00010#5, Instr.jmp 5#5 1#5), (0b00110#5, .jmpi 5#22 1#5)],
      meetsPattern p.1 (encode p.2) = true ∧ meetsStages (fullRecord p.2 1#5 2#32) = true) ∧
    ∀ i ∈ [Instr.jmp 5#5 1#5, .jmpi 5#22 1#5],
      Fires (fullRecord i 1#5 2#32) (atStage .writeBack (fullRecord i 1#5 2#32)).regs ∧
        ¬ Fires (fullRecord i 2#5 2#32) (atStage .writeBack (fullRecord i 2#5 2#32)).regs :=
  ⟨by decide, fun i _ => ⟨(witness_fires i).2.1, (witness_fires i).2.2⟩⟩
/-- O22. -/
theorem witness_SubroutineJumpRules :
    (∀ p ∈ [(0b01010#5, Instr.jmps 5#5 1#5), (0b01110#5, .jmpsi 5#22 1#5)],
      meetsPattern p.1 (encode p.2) = true ∧ meetsStages (fullRecord p.2 1#5 2#32) = true) ∧
    ∀ i ∈ [Instr.jmps 5#5 1#5, .jmpsi 5#22 1#5],
      Fires (fullRecord i 0#5 2#32) (atStage .writeBack (fullRecord i 0#5 2#32)).regs ∧
        ¬ Fires (fullRecord i 2#5 2#32) (atStage .writeBack (fullRecord i 2#5 2#32)).regs :=
  ⟨by decide, fun i _ => ⟨(witness_fires i).1, (witness_fires i).2.2⟩⟩
/-- O23. -/
theorem witness_InterruptRules :
    ∀ p ∈ [(0b10010#5, Instr.sih 10#5), (0b10110#5, .int 7#22), (0b11010#5, .rfi)],
      meetsPattern p.1 (encode p.2) = true ∧ meetsStages (fullRecord p.2 0#5 2#32) = true := by decide
/-- O24. -/
theorem witness_NopRule : meetsAlu 34#6 0xFFFFF11F#32 = true ∧ meetsStages (fullRecord .nop 0#5 2#32) = true := by decide
/-- O25: a divisor that is 0, one that is not, and an instruction that does not divide. -/
theorem witness_StagesReproduceTheDocumentedMutation :
    (small []).active = true ∧ (small []).chain.ok (small []).config = true ∧
      decodeWord 0x01046600#32 = .ok (.divu 3#5 1#5 2#5) ∧ divisor (.divu 3#5 1#5 2#5) (small []).regs = some 0#32 ∧
      divisor (.divu 3#5 1#5 2#5) (small [(2#5, 1#32)]).regs ≠ some 0#32 ∧
      divisor (.mov 3#5 1#5) (small []).regs ≠ some 0#32 := by decide

/-! ### Memory -/

/-- A DRAM with one nonzero word, at address 5, and one zero word, at 9. -/
def someDram : Dram := ((small []).pokeDram 5#32 0x01020304#32 |>.pokeDram 9#32 0#32).chain.dram

/-- O26: an address in the map, with value 0 too, and one that is not. -/
theorem witness_DramKeepsItsMap :
    someDram.wf = true ∧ ((5#32).toNat, 0x01020304#32) ∈ someDram.inspect ∧ ((9#32).toNat, 0#32) ∈ someDram.inspect ∧
      ∀ e ∈ someDram.inspect, e.1 ≠ (0xFFFFFFFF#32).toNat := by decide
/-- O27. -/
theorem witness_CacheHitTouchesNoLowerLevel :
    assocFind [(1, Line.mk 2 7#32 false)] ((5#32).toNat % (CacheParams.mk 2 1).lineCount) = some (Line.mk 2 7#32 false) ∧
      (Line.mk 2 7#32 false).tag = (5#32).toNat / (CacheParams.mk 2 1).lineCount := by decide
/-- O28: a hit, a miss over an empty line, over a clean one and over a dirty one. -/
theorem witness_MissLatencyAddsUp :
    Store.hit ⟨2, 1⟩ [(1, Line.mk 2 7#32 true)] 5#32 = some (Line.mk 2 7#32 true) ∧
      Store.hit ⟨2, 1⟩ [] 5#32 = none ∧ Store.hit ⟨2, 1⟩ [(1, Line.mk 0 7#32 false)] 5#32 = none ∧
      Store.hit ⟨2, 1⟩ [(1, Line.mk 0 7#32 true)] 5#32 = none ∧
      assocFind [(1, Line.mk 0 7#32 true)] ((CacheParams.mk 2 1).index 5#32) = some (Line.mk 0 7#32 true) := by decide

/-- A chain of two levels after a write at 5, a read at 9 and a read at 3: dirty and clean lines at both levels. -/
def usedChain : Chain :=
  (((((State.resetWith cached).pokeDram 9#32 0x55#32).chain.memWrite cached 5#32 0x1234#32).2.memRead cached 9#32).2.memRead
    cached 3#32).2

/-- O29, O30: a chain in its form that has been used, and two addresses of one index and different tags. -/
theorem witness_ChainBehavesAsOneFlatMemory :
    cached.levels.all CacheParams.wellFormed = true ∧ usedChain.dram.wf = true ∧
      storesWf cached.levels usedChain.stores = true ∧ coherent cached.levels usedChain.stores usedChain.dram.mem = true ∧
      (CacheParams.mk 2 1).index 5#32 = (CacheParams.mk 2 1).index 9#32 ∧
      (CacheParams.mk 2 1).tag 5#32 ≠ (CacheParams.mk 2 1).tag 9#32 ∧ usedChain.view cached 5#32 = 0x1234#32 := by decide
theorem witness_CleanLinesStayCoherent : cached.wellFormed = true ∧ usedChain.ok cached = true := by decide
/-- O31: an image of two words, a malformed length, and an unreadable input. -/
theorem witness_ImageWordsLandAtTheirAddresses :
    (loadedWith cached [(1#5, 7#32)] [.nop]).Inv = true ∧ (loadedWith cached [(1#5, 7#32)] [.nop]).runState = .idle ∧
      (loadedWith cached [(1#5, 7#32)] [.nop]).loadFailed = false ∧
      (loadedWith cached [(1#5, 7#32)] [.nop]).allLinesInvalid = true ∧
      cached.wellFormed = true ∧ [1#32, 0#32].length ≤ 2 ^ 32 ∧ (List.replicate 7 1#8).length % 4 ≠ 0 ∧
      (ImageInput.mk [] true).unreadable = true := by decide

/-! ### The step -/

/-- Six instructions, run for four steps, so that slots F, D, X and M are full: STR x1 is in slot.X, and a compare that
will write the status is in slot.M. -/
def busy (c : Config) : State :=
  after 4 (loadedWith c [(1#5, 7#32), (2#5, 2#32), (5#5, 40#32)]
    [.cmpu 1#5 2#5, .str 1#5 5#5, .addui 3#5 1#5 5#9, .mov 4#5 3#5, .ldr 6#5 5#5, .nop])

/-- Meets `Inv`, is active, and its step completes. -/
def good (s : State) : Bool := s.Inv && s.active && completes s

/-- O32, O34, O35, O40, O48, O49: a full pipeline, without caches and with two levels. -/
theorem witness_busy :
    good (busy Config.default) = true ∧ good (busy cached) = true ∧
      ((busy cached).slotM.map fun r => r.op) = some (.cmpu 1#5 2#5) ∧
      ((busy cached).slotX.map fun r => r.op) = some (.str 1#5 5#5) ∧ (busy cached).slotD.isSome = true ∧
      (busy cached).slotF = some (encode (.mov 4#5 3#5)) := by decide

/-- O32: with a store, an INT, a load and nothing in slot.X. -/
theorem witness_MemoryChangesOnlyByStoresAndInterrupts :
    good (busy cached) = true ∧ good State.reset = true ∧
      (good (after 3 (loaded [] [.int 7#22])) = true ∧
        ((after 3 (loaded [] [.int 7#22])).slotX.map fun r => r.op) = some (.int 7#22)) ∧
      good (after 3 (loaded [] [.ldri 1#5 2#17])) = true ∧
      ((after 3 (loaded [] [.ldri 1#5 2#17])).slotX.map fun r => r.op) = some (.ldri 1#5 2#17) := by decide
/-- O33. -/
theorem witness_StepRunsTheDecodedInstruction :
    (busy cached).active = true ∧ decodeWord (encode (.mov 4#5 3#5)) = .ok (.mov 4#5 3#5) ∧
      (State.reset.fetched 0x1100#32).active = true ∧ (State.reset.fetched 0x1100#32).slotM = none ∧
      decodeWord 0x1100#32 = .ok .nop := by decide
/-- O34, O35, O40: the write-back and access-memory actions answer next states. -/
theorem witness_InstructionsMoveForwardOneStage : good (busy cached) = true ∧ isNext (actWriteBack (busy cached)) = true := by
  decide
theorem witness_ProgramCounterAdvances :
    completes (busy cached) = true ∧ isNext (actWriteBack (busy cached)) = true ∧ completes State.reset = true ∧
      State.reset.slotM = none ∧ isNext (actWriteBack State.reset) = true := by decide
theorem witness_CyclesAreThoseOfFetchAndAccess :
    completes (busy cached) = true ∧ isNext (actWriteBack (busy cached)) = true ∧
      isNext (actAccessMemory (stateOr State.reset (actWriteBack (busy cached)))) = true ∧
      completes (after 3 (loaded [] [.int 7#22])) = true ∧ completes (after 3 (loaded [] [.ldri 1#5 2#17])) = true := by
  decide
/-- O36: the three ends of a step, and the host's presets. -/
theorem witness_RunStateMachine :
    ((busy cached).active = true ∧ (stateOr State.reset (step (busy cached))).runState = .running) ∧
      (State.reset.active = true ∧ (stateOr State.reset (step State.reset)).runState = .halted) ∧
      (State.reset.fetched 0x60#32).active = true ∧
      (stateOr State.reset (step (State.reset.fetched 0x60#32))).runState = .faulted ∧
      isNext (hostLoadImage ⟨[0#8, 0#8, 17#8, 0#8], false⟩ [] State.reset) = true ∧
      isNext (hostLoadImage ⟨[0#8, 0#8, 17#8, 0#8, 1#8], false⟩ [(0#32, 9#32)] State.reset) = true := by decide

/-- A zero divide in slot.D, and the word `w` in slot.F. -/
def dividing (w : Word) : State :=
  (after 2 (loaded [(1#5, 7#32)] [.divu 3#5 1#5 2#5])).fetched w

/-- O37, O38: an illegal word behind nothing, behind a zero divide, and behind another instruction; a zero divide alone. -/
theorem witness_AbortKeepsWhatCompletedActionsDid :
    ((dividing 0x60#32).active = true ∧ (stateOr State.reset (step (dividing 0x60#32))).runState = .faulted) ∧
      ((dividing 0x1100#32).active = true ∧ (stateOr State.reset (step (dividing 0x1100#32))).runState = .faulted) ∧
      (stateOr State.reset (step ((busy cached).fetched 0x60#32))).runState = .faulted := by decide
theorem witness_IllegalWordFaultsOneStepAfterItsFetch :
    ((dividing 0x60#32).Inv = true ∧ (dividing 0x60#32).active = true ∧ (dividing 0x60#32).slotF = some 0x60#32) ∧
      (((busy cached).fetched 0x60#32).Inv = true ∧ ((busy cached).fetched 0x60#32).active = true) ∧
      illegal 0x60#32 = true ∧
      ({ State.reset.fetched 0x60#32 with running := true }).Inv = true ∧
      ({ State.reset.fetched 0x60#32 with running := true }).slotD = none := by decide
/-- O39: the record of a MemoryError stays. -/
theorem witness_NoMemoryErrorOccurs :
    ((stateOr State.reset (step (State.reset.abort (.memoryError .fetch 0#32 5#32)))).faultRecord.map fun f => f.kind) =
      some .memoryError := by decide
/-- O41: the sentinel, and another word. -/
theorem witness_SentinelWithEmptyPipelineHalts :
    (State.reset.active = true ∧ State.reset.chain.ok State.reset.config = true ∧ State.reset.mem 0#32 = 0#32) ∧
      (loadedWith cached [] [.nop]).active = true ∧
      (loadedWith cached [] [.nop]).chain.ok (loadedWith cached [] [.nop]).config = true ∧
      (loadedWith cached [] [.nop]).slotF = none ∧ (loadedWith cached [] [.nop]).slotD = none ∧
      (loadedWith cached [] [.nop]).slotX = none ∧ (loadedWith cached [] [.nop]).slotM = none ∧
      (loadedWith cached [] [.nop]).mem 0#32 ≠ 0#32 := by decide

/-- MOV x4, x3 three instructions behind ADDUI x`d`, so that slot.M and slot.F hold them. -/
def threeBehind (d : Reg) : State := after 4 (loaded [] [.addui d 1#5 5#9, .nop, .nop, .mov 4#5 3#5, .nop])

/-- O42: with slot.M empty, and with a MOV that reads the destination of the instruction in slot.M, and one that does not. -/
theorem witness_DecodeReadsRegistersAfterTheWriteBackOfTheSameStep :
    (good (threeBehind 3#5) = true ∧ (threeBehind 3#5).slotF = some (encode (.mov 4#5 3#5)) ∧
        decodeWord (encode (.mov 4#5 3#5)) = .ok (.mov 4#5 3#5) ∧
        ((threeBehind 3#5).slotM.map fun m => (m.rd, m.res)) = some (some 3#5, some 5#32)) ∧
      (good (threeBehind 2#5) = true ∧
        ((threeBehind 2#5).slotM.map fun m => (m.rd, m.res)) = some (some 2#5, some 5#32)) ∧
      good (after 1 (loaded [] [.mov 4#5 3#5, .nop])) = true ∧
      (after 1 (loaded [] [.mov 4#5 3#5, .nop])).slotF = some (encode (.mov 4#5 3#5)) ∧
      (after 1 (loaded [] [.mov 4#5 3#5, .nop])).slotM = none := by decide

/-- `i` in slot.M, with three instructions behind it. -/
def leading (i : Instr) : State :=
  after 4 (loaded [(5#5, 100#32), (Reg.status, 1#32), (Reg.intHandler, 16#32), (Reg.intLink, 9#32)] [i, .nop, .nop, .nop])

/-- O42, the other producers in slot.M: loads, MOV, NOT, a compare, SIH, a subroutine jump, INT, RFI, a store and NOP, each
with NOP in slot.F. -/
theorem witness_producers :
    [Instr.ldr 3#5 5#5, .ldri 3#5 2#17, .mov 3#5 5#5, .not 3#5 5#5, .cmpu 5#5 6#5, .sih 5#5].all
        (fun i => good (leading i) && (leading i).slotM.any fun r => decide (r.op = i)) = true ∧
      [Instr.jmps 5#5 0#5, .int 7#22, .rfi, .str 5#5 5#5, .nop].all
        (fun i => good (leading i) && (leading i).slotM.any fun r => decide (r.op = i)) = true ∧
      (leading .rfi).slotF = some (encode .nop) ∧ decodeWord (encode .nop) = .ok .nop := by decide

/-- O43: the four jumps, their conditions holding. -/
theorem witness_TakenJumpFetchesItsTargetAndSquashesNothing :
    [Instr.jmp 5#5 1#5, .jmpi 5#22 1#5, .jmps 5#5 0#5, .jmpsi 5#22 1#5].all (fun i =>
      good (leading i) && decide (fieldsSet i = .jump) &&
        (leading i).slotM.any fun r => decide (r.op = i) && r.addr.isSome &&
          (decide (r.cond = 0#5) || decide (readReg (leading i).regs Reg.status = r.cond.zeroExtend 32))) = true := by
  decide
/-- O44. -/
theorem witness_InterruptEntryAndReturnInTheStep :
    [Instr.int 7#22, .rfi].all (fun i => good (leading i) && (leading i).slotM.any fun r => decide (r.op = i)) = true := by
  decide

/-- STR x1 in slot.X, its address the word that the next step fetches, and nothing in slot.M. -/
def storing (v : Word) : State := after 3 (loaded [(1#5, v), (5#5, 3#32)] [.str 1#5 5#5, .nop, .nop, .mov 4#5 3#5])
/-- The same behind NOP, which is in slot.M. -/
def storingBehind : State := after 4 (loaded [(1#5, 7#32), (5#5, 4#32)] [.nop, .str 1#5 5#5, .nop, .nop, .mov 4#5 3#5])
/-- INT in slot.X, INT_CODE_ADDR the word that the next step fetches. -/
def recording : State := after 3 (loadedWith { Config.default with intCodeAddr := 3#32 } [] [.int 7#22, .nop, .nop])

/-- O45: a stored word other than 0, and 0; behind another instruction; and INT's code. -/
theorem witness_StoreIsSeenByTheFetchOfItsStep :
    [storing 0x1100#32, storing 0#32, storingBehind].all (fun s => good s &&
      s.slotX.any fun r => decide (fieldsSet r.op = .store) && r.a.isSome &&
        decide (r.addr = some ((stateOr s (actWriteBack s)).reg Reg.pc))) = true ∧
    storingBehind.slotM.isSome = true ∧ (storing 0#32).slotM = none ∧
    (good recording && recording.slotX.any fun r => decide (r.op = .int 7#22) && r.a.isSome &&
      decide (recording.config.intCodeAddr = (stateOr recording (actWriteBack recording)).reg Reg.pc)) = true := by decide

/-- One divide at address 0 and nothing behind it. -/
def lone : State := loaded [(1#5, 7#32), (2#5, 2#32)] [.divu 3#5 1#5 2#5]

/-- O46. -/
theorem witness_LoneInstructionWritesBackInItsFifthStep :
    (lone.active = true ∧ lone.chain.ok lone.config = true ∧ lone.slotF = none ∧ lone.slotD = none ∧ lone.slotX = none ∧
      lone.slotM = none) ∧
    (lone.mem (lone.reg Reg.pc) = 0x01046600#32 ∧ decodeWord 0x01046600#32 = .ok (.divu 3#5 1#5 2#5)) ∧
    (∀ k ∈ [1, 2, 3, 4, 5], lone.mem (lone.reg Reg.pc + BitVec.ofNat 32 k) = 0#32) ∧
    fieldsSet (.divu 3#5 1#5 2#5) = .alu ∧
    divisor (.divu 3#5 1#5 2#5) (writeReg lone.regs Reg.pc (lone.reg Reg.pc + 1#32)) ≠ some 0#32 ∧
    destination (.divu 3#5 1#5 2#5) ≠ some Reg.pc := by decide

/-! ### Invariants, independence and the host -/

/-- O47. -/
theorem witness_ResetMeetsTheInvariant : cached.wellFormed = true ∧ Config.default.wellFormed = true := by decide
/-- O48, O49. -/
theorem witness_EveryStepKeepsTheInvariant : (busy cached).Inv = true ∧ isNext (step (busy cached)) = true := by decide
theorem witness_EveryStepAnswersANextState : (busy cached).Inv = true := by decide

/-- A loaded instance with MOV x3, x1 just fetched. -/
def half (c : Config) : State :=
  { ((State.resetWith c).pokeDram 5#32 7#32).fetched 0x00047080#32 with running := true }

/-- O50: two instances that agree on all but their cache levels. -/
theorem witness_CachesAndDelaysAreInvisible :
    (half Config.default).Inv = true ∧ (half cached).Inv = true ∧ sameButTiming (half Config.default) (half cached) ∧
      (half Config.default).config ≠ (half cached).config :=
  ⟨by decide, by decide, ⟨rfl, rfl, rfl, rfl, rfl, rfl, rfl, rfl, rfl, rfl, rfl, rfl, rfl, fun _ => rfl⟩, by decide⟩
/-- What a load leaves (the old state where it is refused). -/
def loadedState (s : State) (x : Result Loaded) : State :=
  match x with
  | .next r => r.state
  | .fault _ => s
  | .refused _ => s

/-- Reset, and then a load of five bytes that fails. -/
def failed : State := loadedState State.reset (hostLoadImage ⟨[0#8, 0#8, 17#8, 0#8, 1#8], false⟩ [(0#32, 9#32)] State.reset)
/-- Reset of the cached instance, and then a host `get` that fills a line. -/
def touched : State := (hostGet 5#32 (State.resetWith cached)).2

/-- O51: ready for a load, after a failed load, with a valid line, and outside IDLE. -/
theorem witness_HostPresetsInIdleOnly :
    (State.reset.runState = .idle ∧ State.reset.loadFailed = false ∧ State.reset.allLinesInvalid = true) ∧
      (failed.runState = .idle ∧ failed.loadFailed = true) ∧
      (touched.runState = .idle ∧ touched.loadFailed = false ∧ touched.allLinesInvalid = false) ∧
      ((ImageInput.mk [0#8, 0#8, 17#8, 0#8] false).bytes.length % 4 = 0 ∧
        (ImageInput.mk [0#8, 0#8, 17#8, 0#8] false).bytes.length ≤ 4 * 2 ^ 32) ∧
      (busy cached).runState ≠ .idle := by decide
/-- O52. -/
theorem witness_PortsShowTheFault : State.reset.faultRecord = none := rfl
/-- O53. -/
theorem witness_HostGetAndSetUseTheChainBetweenSteps : (busy cached).chain.ok (busy cached).config = true := by decide

/-- O54: the words of a failed load. -/
theorem witness_FailedLoadLeavesAnyWordsUntilReset :
    (State.reset.Inv = true ∧ State.reset.runState = .idle ∧ State.reset.loadFailed = false ∧
      State.reset.allLinesInvalid = true) ∧
      (ImageInput.mk [0#8, 0#8, 17#8, 0#8, 1#8] false).bytes.length % 4 ≠ 0 ∧ (0#32).toNat < 5 / 4 ∧ 5 / 4 ≤ (1#32).toNat ∧
      failed.mem 0#32 = 9#32 ∧ failed.Inv = true := by decide
/-- O55: a machine with a program in it, and the actions that are taken in it. -/
theorem witness_HostActionsKeepTheInvariant :
    (loadedWith cached [(1#5, 7#32)] [.nop]).Inv = true ∧
      isNext (hostLoadImage ⟨[0#8, 0#8, 17#8, 0#8], false⟩ [] (loadedWith cached [] [.nop])) = true ∧
      isNext (hostLoadWord 5#32 7#32 (loadedWith cached [] [.nop])) = true ∧
      isNext (hostPresetReg 5#5 7#32 (loadedWith cached [] [.nop])) = true ∧
      (loadedWith cached [] [.nop]).allLinesInvalid = true ∧
      isNext (clockEdge true ⟨false, true, true, 0#32, 0#32⟩ (loadedWith cached [] [.nop])) = true ∧
      isNext (clockEdge false ⟨false, true, true, 0#32, 0#32⟩ (loaded [] [.nop])) = true ∧
      (loaded [] [.nop]).Inv = true ∧ (loaded [] [.nop]).config.levels = [] := by decide
/-- O56: each request. -/
theorem witness_ClockEdgeTakesTheRequest :
    (PortIn.mk true true true 4#32 5#32).rst = true ∧
      (PortIn.mk false true false 4#32 5#32).rst = false ∧ (PortIn.mk false true false 4#32 5#32).stepEn = true ∧
      (PortIn.mk false false true 4#32 5#32).ldValid = true ∧ (PortIn.mk false true true 4#32 5#32).ldValid = true ∧
      State.reset.runState = .idle ∧ isNext (step State.reset) = true ∧ (busy cached).runState ≠ .idle ∧
      (stateOr State.reset (step State.reset)).runState = .halted := by decide
/-- O57: a step that completes, and one that is aborted. -/
theorem witness_PortsShowTheRun :
    (busy cached).active = true ∧ completes (busy cached) = true ∧ (dividing 0x60#32).active = true ∧
      (stateOr State.reset (step (dividing 0x60#32))).runState = .faulted := by decide

/-- A step and a load at one edge in IDLE: the fetch sees the word if the load comes first, and not if it comes second. -/
theorem test_step_and_load_at_one_edge :
    ((stateOr State.reset (clockEdge true ⟨false, true, true, 0#32, 0x1100#32⟩ State.reset)).slotF = some 0x1100#32 ∧
        (stateOr State.reset (clockEdge false ⟨false, true, true, 0#32, 0x1100#32⟩ State.reset)).slotF = none) ∧
      (stateOr State.reset (clockEdge false ⟨false, true, true, 0#32, 0x1100#32⟩ State.reset)).mem 0#32 = 0x1100#32 := by
  decide
/-- A DRAM word written in IDLE under a valid line is in `dram.map`. -/
theorem test_word_under_a_line :
    (stateOr touched (hostLoadWord 5#32 7#32 touched)).inspect = [(5, 7#32)] := by decide

/-! ## One step -/

/-- R206, R208: a fetched word 0 with every other slot empty ends the run, and `x[28]` has moved. -/
theorem test_sentinel_halts :
    (stateOr State.reset (step State.reset)).runState = .halted ∧ (stateOr State.reset (step State.reset)).reg Reg.pc = 1#32 :=
  by decide
/-- A taken jump in slot.M: `x[28]` ends one past its target. -/
theorem test_jump_in_step : (stateOr State.reset (step (leading (.jmp 5#5 1#5)))).reg Reg.pc = 101#32 := by decide
/-- INT in slot.M: the return address is the program counter of that step plus 1 (4 fetches came before). -/
theorem test_int_in_step : (stateOr State.reset (step (leading (.int 7#22)))).reg Reg.intLink = 5#32 := by decide

end Sys2Proof.Tests.Slice0
end

section
/-!
PROOFS. The memory chain as one flat memory (20_memory.md R67 to R69): a read answers the view and leaves it, a write
changes it at its own address only, and both keep the chain's form. The argument is by levels: a level is drained of the
line that its next fill overwrites, and then filled.
-/

namespace Sys2Proof.Machine

/-! ## The chain's form, level by level -/

/-- Every valid clean line holds what the levels below view at its address (R68). -/
def Store.clean (p : CacheParams) (st : Store) (V : Word → Word) : Prop :=
  ∀ e ∈ st, e.2.dirty = true ∨ e.2.data = V (p.address e.2.tag e.1)

/-- The parts of `Chain.ok` that concern the levels `ps`, with contents `sts`, in front of `d`. -/
structure ChainForm (ps : List CacheParams) (sts : List Store) (d : Dram) : Prop where
  legal : ps.all CacheParams.wellFormed = true
  dram : d.wf = true
  stores : storesWf ps sts = true
  coherence : coherent ps sts d.mem = true

theorem ChainForm.nil_iff {sts : List Store} {d : Dram} : ChainForm [] sts d ↔ d.wf = true ∧ sts = [] := by
  constructor
  · rintro ⟨-, hd, hs, -⟩
    exact ⟨hd, by simpa [storesWf] using hs⟩
  · rintro ⟨hd, rfl⟩
    exact ⟨rfl, hd, rfl, rfl⟩

theorem ChainForm.cons_iff {p : CacheParams} {ps : List CacheParams} {sts : List Store} {d : Dram} :
    ChainForm (p :: ps) sts d ↔
      p.wellFormed = true ∧ sts ≠ [] ∧ Store.wf p (sts.headD []) = true ∧
        Store.clean p (sts.headD []) (chainView ps sts.tail d.mem) ∧ ChainForm ps sts.tail d := by
  constructor
  · rintro ⟨hl, hd, hs, hc⟩
    simp only [List.all_cons, storesWf, coherent, Bool.and_eq_true, List.all_eq_true,
      Bool.or_eq_true, decide_eq_true_eq, Bool.not_eq_true', List.isEmpty_eq_false_iff] at hl hs hc
    obtain ⟨⟨hne, hst⟩, hss⟩ := hs
    exact ⟨hl.1, hne, hst, hc.1, ⟨List.all_eq_true.2 hl.2, hd, hss, hc.2⟩⟩
  · rintro ⟨hp, hne, hst, hcl, hl, hd, hss, hc⟩
    refine ⟨?_, hd, ?_, ?_⟩
    · simp only [List.all_cons, hp, hl, Bool.and_self]
    · simp only [storesWf, List.isEmpty_eq_false_iff.2 hne, hst, hss, Bool.not_false, Bool.and_self]
    · simp only [coherent, hc, Bool.and_true, List.all_eq_true, Bool.or_eq_true, decide_eq_true_eq]
      exact hcl

theorem Chain.ok_iff {c : Config} {ch : Chain} :
    ch.ok c = true ↔ c.nLevels ≤ 3 ∧ ChainForm c.levels ch.stores ch.dram := by
  simp only [Chain.ok, Config.wellFormed, Bool.and_eq_true, decide_eq_true_eq]
  constructor
  · rintro ⟨⟨⟨⟨hn, hl⟩, hd⟩, hs⟩, hc⟩
    exact ⟨hn, hl, hd, hs, hc⟩
  · rintro ⟨hn, hl, hd, hs, hc⟩
    exact ⟨⟨⟨⟨hn, hl⟩, hd⟩, hs⟩, hc⟩

/-! ## One level: its lines, its view -/

/-- The view at one level in front of what the levels below view (R67). -/
def levelView (p : CacheParams) (st : Store) (V : Word → Word) (b : Word) : Word :=
  match Store.hit p st b with
  | some l => l.data
  | none => V b

theorem chainView_cons (p : CacheParams) (ps : List CacheParams) (sts : List Store) (m : Memory) (b : Word) :
    chainView (p :: ps) sts m b = levelView p (sts.headD []) (chainView ps sts.tail m) b := rfl

theorem levelView_hit {p : CacheParams} {st : Store} {V : Word → Word} {b : Word} {l : Line}
    (h : Store.hit p st b = some l) : levelView p st V b = l.data := by
  simp only [levelView, h]

theorem levelView_miss {p : CacheParams} {st : Store} {V : Word → Word} {b : Word} (h : Store.hit p st b = none) :
    levelView p st V b = V b := by
  simp only [levelView, h]

/-- An address is determined by its index and its tag (R56). -/
theorem CacheParams.eq_of_index_tag {p : CacheParams} {a b : Word} (hi : p.index b = p.index a) (ht : p.tag b = p.tag a) :
    b = a := by
  rw [← CacheParams.address_tag_index p b, hi, ht, CacheParams.address_tag_index]

theorem Store.wf_iff {p : CacheParams} {st : Store} :
    Store.wf p st = true ↔
      assocSorted st = true ∧ ∀ e ∈ st, e.1 < p.lineCount ∧ e.2.tag * p.lineCount + e.1 < 2 ^ 32 := by
  simp [Store.wf]

/-- A listed line has the tag and the index of its own address. -/
theorem Store.tag_index_of_mem {p : CacheParams} {st : Store} (h : Store.wf p st = true) {e : Nat × Line} (he : e ∈ st) :
    p.tag (p.address e.2.tag e.1) = e.2.tag ∧ p.index (p.address e.2.tag e.1) = e.1 := by
  obtain ⟨hlt, hbound⟩ := (Store.wf_iff.1 h).2 e he
  exact CacheParams.tag_index_address hlt hbound

/-- A line that an address hits stands for that address. -/
theorem Store.address_of_hit {p : CacheParams} {st : Store} {b : Word} {l : Line} (h : Store.hit p st b = some l) :
    p.address l.tag (p.index b) = b := by
  rw [(Store.hit_eq_some.1 h).2, CacheParams.address_tag_index]

/-- The lines after a fill: the new one, and those of the other indexes. -/
theorem Store.mem_fill {p : CacheParams} {st : Store} {a v : Word} {dirty : Bool} {e : Nat × Line}
    (hs : assocSorted st = true) (h : e ∈ Store.fill p st a v dirty) :
    e = (p.index a, { tag := p.tag a, data := v, dirty := dirty }) ∨ (e.1 ≠ p.index a ∧ e ∈ st) := by
  have hf : assocFind (Store.fill p st a v dirty) e.1 = some e.2 := assocFind_of_mem (assocSorted_put _ _ hs) h
  rw [Store.find_fill] at hf
  split at hf
  · rename_i hi
    exact .inl (Prod.ext hi (Option.some.inj hf).symm)
  · rename_i hi
    exact .inr ⟨hi, mem_of_assocFind hf⟩

theorem Store.wf_fill {p : CacheParams} {st : Store} (a v : Word) (dirty : Bool) (hp : p.wellFormed = true)
    (h : Store.wf p st = true) : Store.wf p (Store.fill p st a v dirty) = true := by
  obtain ⟨hs, hl⟩ := Store.wf_iff.1 h
  refine Store.wf_iff.2 ⟨assocSorted_put _ _ hs, fun e he => ?_⟩
  rcases Store.mem_fill hs he with rfl | ⟨-, he⟩
  · refine ⟨CacheParams.index_lt hp a, ?_⟩
    have hsum : p.tag a * p.lineCount + p.index a = a.toNat := by
      rw [Nat.mul_comm]
      exact Nat.div_add_mod _ _
    exact hsum ▸ a.isLt
  · exact hl e he

/-- What a fill at `a` makes of the hits: `a` itself hits, other addresses of its index miss, the rest is as before. -/
theorem Store.hit_fill {p : CacheParams} {st : Store} {a b v : Word} {dirty : Bool} :
    Store.hit p (Store.fill p st a v dirty) b =
      if b = a then some { tag := p.tag a, data := v, dirty := dirty }
      else if p.index b = p.index a then none else Store.hit p st b := by
  by_cases hb : b = a
  · subst hb
    rw [if_pos rfl, Store.hit_fill_same]
  · rw [if_neg hb]
    by_cases hi : p.index b = p.index a
    · have ht : ¬ p.tag a = p.tag b := fun ht => hb (CacheParams.eq_of_index_tag hi ht.symm)
      simp only [Store.hit, Store.find_fill, hi, if_true, if_neg ht]
    · simp only [Store.hit, Store.find_fill, if_neg hi]

/-! ## Draining a level, and filling it -/

/-- The levels below a level with the lines `st` view `V'`, where they viewed `V` before the level was drained for `a`: the
line that a fill at `a` overwrites is now below, and nothing else has changed there (R61). -/
structure Drained (p : CacheParams) (st : Store) (a : Word) (V V' : Word → Word) : Prop where
  occupant : ∀ b l, b ≠ a → p.index b = p.index a → Store.hit p st b = some l → V' b = l.data
  missed : ∀ b, Store.hit p st b = none → V' b = V b
  elsewhere : ∀ b, p.index b ≠ p.index a → V' b = V b

/-- A level whose line at `a`'s index need not be forwarded is drained as it is (R61). -/
theorem Drained.of_no_victim {p : CacheParams} {st : Store} {a : Word} {V : Word → Word} (hc : Store.clean p st V)
    (hv : Store.victim p st a = none) : Drained p st a V V := by
  refine ⟨fun b l hb hi hh => ?_, fun _ _ => rfl, fun _ _ => rfl⟩
  obtain ⟨hf, ht⟩ := Store.hit_eq_some.1 hh
  have hta : l.tag ≠ p.tag a := fun h => hb (CacheParams.eq_of_index_tag hi (ht.symm.trans h))
  rcases hc _ (mem_of_assocFind hf) with hd | hd
  · have := Store.victim_eq_some.2 ⟨l, hi ▸ hf, hta, hd, rfl, rfl⟩
    rw [hv] at this
    cases this
  · rw [hd]
    exact congrArg V (Store.address_of_hit hh).symm

theorem Store.victim_of_hit {p : CacheParams} {st : Store} {a : Word} {l : Line} (h : Store.hit p st a = some l) :
    Store.victim p st a = none := by
  obtain ⟨hf, ht⟩ := Store.hit_eq_some.1 h
  simp only [Store.victim, hf, ht, ne_eq, not_true_eq_false, false_and, if_false]

/-- Writing the victim to the levels below drains the level (R61). -/
theorem Drained.of_victim {p : CacheParams} {st : Store} {a va vd : Word} {V V' : Word → Word}
    (hw : Store.wf p st = true) (hv : Store.victim p st a = some (va, vd))
    (hV : ∀ b, V' b = if b = va then vd else V b) : Drained p st a V V' := by
  obtain ⟨l, hf, -, -, rfl, rfl⟩ := Store.victim_eq_some.1 hv
  obtain ⟨htag, hidx⟩ := Store.tag_index_of_mem hw (mem_of_assocFind hf)
  have hhit : Store.hit p st (p.address l.tag (p.index a)) = some l :=
    Store.hit_eq_some.2 ⟨by rw [hidx]; exact hf, htag.symm⟩
  refine ⟨fun b l' _ hi hh => ?_, fun b hb => ?_, fun b hi => ?_⟩
  · obtain ⟨hf', -⟩ := Store.hit_eq_some.1 hh
    rw [hi, hf] at hf'
    cases hf'
    rw [hV, if_pos (by rw [← hi]; exact (Store.address_of_hit hh).symm)]
  · rw [hV, if_neg (by rintro rfl; rw [hhit] at hb; cases hb)]
  · rw [hV, if_neg (by rintro rfl; exact hi hidx)]

/-- Filling a drained level changes its view at the filled address only. -/
theorem levelView_fill {p : CacheParams} {st : Store} {a : Word} {V V' : Word → Word} (h : Drained p st a V V')
    (v : Word) (dirty : Bool) (b : Word) :
    levelView p (Store.fill p st a v dirty) V' b = if b = a then v else levelView p st V b := by
  by_cases hb : b = a
  · rw [if_pos hb, levelView_hit (Store.hit_fill.trans (if_pos hb))]
  rw [if_neg hb]
  have hfill := Store.hit_fill (p := p) (st := st) (a := a) (b := b) (v := v) (dirty := dirty)
  rw [if_neg hb] at hfill
  by_cases hi : p.index b = p.index a
  · rw [levelView_miss (hfill.trans (if_pos hi))]
    cases hh : Store.hit p st b with
    | none => rw [levelView_miss hh, h.missed b hh]
    | some l => rw [levelView_hit hh, h.occupant b l hb hi hh]
  · rw [if_neg hi] at hfill
    cases hh : Store.hit p st b with
    | none => rw [levelView_miss (hfill.trans hh), levelView_miss hh, h.missed b hh]
    | some l => rw [levelView_hit (hfill.trans hh), levelView_hit hh]

/-- Filling a drained level, with a dirty line or with what the levels below view, keeps its clean lines clean (R68). -/
theorem Store.clean_fill {p : CacheParams} {st : Store} {a v : Word} {dirty : Bool} {V V' : Word → Word}
    (hw : Store.wf p st = true) (hc : Store.clean p st V) (h : Drained p st a V V') (hv : dirty = true ∨ v = V' a) :
    Store.clean p (Store.fill p st a v dirty) V' := by
  intro e he
  rcases Store.mem_fill (Store.wf_iff.1 hw).1 he with rfl | ⟨hi, he⟩
  · exact hv.imp id fun hv => by rw [CacheParams.address_tag_index]; exact hv
  · refine (hc e he).imp id fun hd => ?_
    rw [hd, h.elsewhere _ (by rw [(Store.tag_index_of_mem hw he).2]; exact hi)]

/-- Filling the first level of a chain whose lower levels drained it: the form is kept, and the view changes at the filled
address only. -/
theorem ChainForm.fill {p : CacheParams} {ps : List CacheParams} {sts sts' : List Store} {d d' : Dram} {a v : Word}
    {dirty : Bool} (h : ChainForm (p :: ps) sts d) (h' : ChainForm ps sts' d')
    (hdr : Drained p (sts.headD []) a (chainView ps sts.tail d.mem) (chainView ps sts' d'.mem))
    (hv : dirty = true ∨ v = chainView ps sts' d'.mem a) :
    ChainForm (p :: ps) (Store.fill p (sts.headD []) a v dirty :: sts') d' ∧
      ∀ b, chainView (p :: ps) (Store.fill p (sts.headD []) a v dirty :: sts') d'.mem b =
        if b = a then v else chainView (p :: ps) sts d.mem b := by
  obtain ⟨hp, -, hst, hcl, -⟩ := ChainForm.cons_iff.1 h
  refine ⟨ChainForm.cons_iff.2 ⟨hp, List.cons_ne_nil _ _, Store.wf_fill a v dirty hp hst, ?_, h'⟩, fun b => ?_⟩
  · exact Store.clean_fill hst hcl hdr hv
  · rw [chainView_cons, chainView_cons]
    exact levelView_fill hdr v dirty b

/-! ## Writes -/

/-- The write completes, keeps the chain's form, and changes the view at its own address only (R69). -/
def WritesAt (n : Nat) (ps : List CacheParams) (sts : List Store) (d : Dram) (a v : Word) : Prop :=
  ∃ c sts' d', chainSet n ps sts d a v = (.wait c (), sts', d') ∧ ChainForm ps sts' d' ∧
    ∀ b, chainView ps sts' d'.mem b = if b = a then v else chainView ps sts d.mem b

theorem writesAt_dram {n : Nat} {sts : List Store} {d : Dram} (a v : Word) (h : ChainForm [] sts d) :
    WritesAt n [] sts d a v := by
  obtain ⟨hd, hs⟩ := ChainForm.nil_iff.1 h
  refine ⟨n, sts, (d.set n a v).2, chainSet_dram .., ChainForm.nil_iff.2 ⟨Dram.set_wf n a v hd, hs⟩, fun b => ?_⟩
  simp only [chainView, Dram.set_mem, Memory.readWord_writeWord _ _ _ ((Dram.wf_iff d).1 hd).1, BitVec.toNat_inj]

/-- The eviction step completes and drains the level, if the levels below take writes (R61). -/
theorem chainEvict_drains {n : Nat} {p : CacheParams} {ps : List CacheParams} {sts : List Store} {d : Dram} {a : Word}
    (hset : ∀ va vd, WritesAt n ps sts.tail d va vd) (h : ChainForm (p :: ps) sts d) :
    ∃ e sts' d', chainEvict n ps sts.tail d (Store.victim p (sts.headD []) a) = (.wait e (), sts', d') ∧
      ChainForm ps sts' d' ∧
      Drained p (sts.headD []) a (chainView ps sts.tail d.mem) (chainView ps sts' d'.mem) := by
  obtain ⟨-, -, hst, hcl, hlow⟩ := ChainForm.cons_iff.1 h
  cases hv : Store.victim p (sts.headD []) a with
  | none => exact ⟨0, _, _, rfl, hlow, Drained.of_no_victim hcl hv⟩
  | some q =>
    obtain ⟨va, vd⟩ := q
    obtain ⟨e, sts', d', he, hform, hview⟩ := hset va vd
    exact ⟨e, sts', d', he, hform, Drained.of_victim hst hv hview⟩

/-- `set`, miss: eviction, if there is a victim, then the fill (R60, R61). -/
theorem chainSet_miss {n : Nat} {p : CacheParams} {ps : List CacheParams} {sts sts' : List Store} {d d' : Dram}
    {a v : Word} {e : Nat} (h : Store.hit p (sts.headD []) a = none)
    (he : chainEvict n ps sts.tail d (Store.victim p (sts.headD []) a) = (.wait e (), sts', d')) :
    chainSet n (p :: ps) sts d a v = (.wait (p.delay + e) (), Store.fill p (sts.headD []) a v true :: sts', d') := by
  cases hv : Store.victim p (sts.headD []) a with
  | none =>
    rw [hv] at he
    cases he
    exact chainSet_miss_clean h hv
  | some q =>
    rw [hv] at he
    exact chainSet_miss_dirty h hv he

theorem chainSet_writesAt {n : Nat} {ps : List CacheParams} {sts : List Store} {d : Dram} (a v : Word)
    (h : ChainForm ps sts d) : WritesAt n ps sts d a v := by
  induction ps generalizing sts d a v with
  | nil => exact writesAt_dram a v h
  | cons p ps ih =>
    obtain ⟨-, -, -, hcl, hlow⟩ := ChainForm.cons_iff.1 h
    cases hh : Store.hit p (sts.headD []) a with
    | some l =>
      have hdr := Drained.of_no_victim hcl (Store.victim_of_hit hh)
      exact ⟨_, _, _, chainSet_hit hh, h.fill hlow hdr (.inl rfl)⟩
    | none =>
      obtain ⟨e, sts', d', he, hform, hdr⟩ := chainEvict_drains (a := a) (fun va vd => ih va vd hlow) h
      exact ⟨_, _, _, chainSet_miss hh he, h.fill hform hdr (.inl rfl)⟩

/-! ## Reads -/

/-- The read answers the view, keeps the chain's form, and leaves the view as it was (R67, R69). -/
theorem chainGet_reads {n : Nat} {ps : List CacheParams} {sts : List Store} {d : Dram} (a : Word)
    (h : ChainForm ps sts d) :
    ∃ c sts' d', chainGet n ps sts d a = (.wait c (chainView ps sts d.mem a), sts', d') ∧ ChainForm ps sts' d' ∧
      ∀ b, chainView ps sts' d'.mem b = chainView ps sts d.mem b := by
  induction ps generalizing sts d with
  | nil =>
    obtain ⟨hd, hs⟩ := ChainForm.nil_iff.1 h
    exact ⟨n, sts, (d.get n a).2, chainGet_dram .., ChainForm.nil_iff.2 ⟨Dram.get_wf n a hd, hs⟩, fun _ => rfl⟩
  | cons p ps ih =>
    obtain ⟨-, -, -, -, hlow⟩ := ChainForm.cons_iff.1 h
    cases hh : Store.hit p (sts.headD []) a with
    | some l =>
      refine ⟨p.delay, sts, d, ?_, h, fun _ => rfl⟩
      rw [chainGet_hit hh, chainView_cons, levelView_hit hh]
    | none =>
      obtain ⟨e, sts', d', he, hform, hdr⟩ :=
        chainEvict_drains (n := n) (a := a) (fun va vd => chainSet_writesAt va vd hlow) h
      obtain ⟨g, sts'', d'', hg, hform', hview⟩ := ih hform
      have hdr' : Drained p (sts.headD []) a (chainView ps sts.tail d.mem) (chainView ps sts'' d''.mem) :=
        (funext hview : chainView ps sts'' d''.mem = chainView ps sts' d'.mem) ▸ hdr
      have hword : chainView ps sts' d'.mem a = chainView (p :: ps) sts d.mem a := by
        rw [chainView_cons, levelView_miss hh, hdr.missed a hh]
      obtain ⟨hfill, hlevel⟩ := h.fill hform' hdr' (dirty := false) (.inr (hview a).symm)
      refine ⟨_, _, _, hword ▸ chainGet_miss hh he hg, hword ▸ hfill, fun b => ?_⟩
      rw [← hword, hlevel, hword]
      exact ite_eq_right_iff.2 (· ▸ rfl)

/-! ## The memory port (R71) -/

/-- `MemRead` answers `Mem`, and leaves it and the chain's form as they were. -/
theorem Chain.memRead_view {c : Config} {ch : Chain} (a : Word) (h : ch.ok c = true) :
    ∃ n ch', ch.memRead c a = (.wait n (ch.view c a), ch') ∧ ch'.ok c = true ∧ ∀ b, ch'.view c b = ch.view c b := by
  obtain ⟨hn, hform⟩ := Chain.ok_iff.1 h
  obtain ⟨n, sts, d, hget, hform', hview⟩ := chainGet_reads (n := c.dramDelay) a hform
  exact ⟨n, ⟨sts, d⟩, by rw [Chain.memRead, hget]; rfl, Chain.ok_iff.2 ⟨hn, hform'⟩, hview⟩

/-- `MemWrite` changes `Mem` at its address only, and keeps the chain's form. -/
theorem Chain.memWrite_view {c : Config} {ch : Chain} (a v : Word) (h : ch.ok c = true) :
    ∃ n ch', ch.memWrite c a v = (.wait n (), ch') ∧ ch'.ok c = true ∧
      ∀ b, ch'.view c b = if b = a then v else ch.view c b := by
  obtain ⟨hn, hform⟩ := Chain.ok_iff.1 h
  obtain ⟨n, sts, d, hset, hform', hview⟩ := chainSet_writesAt (n := c.dramDelay) a v hform
  exact ⟨n, ⟨sts, d⟩, by rw [Chain.memWrite, hset], Chain.ok_iff.2 ⟨hn, hform'⟩, hview⟩

end Sys2Proof.Machine
end

section
/-!
PROOFS. The model's arithmetic, shift, compare and condition operations are Lean's own word operations (R131, R150, R160,
R180).
-/

namespace Sys2Proof.Machine

theorem aluAdd_eq (a b : Word) : aluAdd a b = a + b := by
  rw [aluAdd, BitVec.ofNat_add, BitVec.ofNat_toNat, BitVec.ofNat_toNat, BitVec.setWidth_eq, BitVec.setWidth_eq]

theorem aluSub_eq (a b : Word) : aluSub a b = a - b := by
  apply BitVec.eq_of_toNat_eq
  have ha := a.isLt
  have hb := b.isLt
  simp only [aluSub, BitVec.toNat_ofInt, BitVec.toNat_sub]
  omega

theorem aluMul_eq (a b : Word) : aluMul a b = a * b := by
  rw [aluMul, BitVec.ofNat_mul, BitVec.ofNat_toNat, BitVec.ofNat_toNat, BitVec.setWidth_eq, BitVec.setWidth_eq]

theorem aluDivU_eq (a b : Word) : aluDivU a b = a.udiv b := by
  rw [aluDivU, BitVec.udiv_eq, BitVec.udiv_def]

theorem aluDivS_eq (a b : Word) : aluDivS a b = a.sdiv b := by
  apply BitVec.eq_of_toInt_eq
  rw [aluDivS, BitVec.toInt_ofInt, BitVec.toInt_sdiv]

theorem aluShl_eq (a n : Word) : aluShl a n = a <<< n.toNat := by
  unfold aluShl
  split
  · apply BitVec.eq_of_toNat_eq
    rw [BitVec.toNat_ofNat, BitVec.toNat_shiftLeft, Nat.shiftLeft_eq]
  · rw [BitVec.shiftLeft_eq_zero (by omega)]

theorem aluShrL_eq (a n : Word) : aluShrL a n = a >>> n.toNat := by
  unfold aluShrL
  split
  · apply BitVec.eq_of_toNat_eq
    rw [BitVec.toNat_ofNat, BitVec.toNat_ushiftRight, Nat.shiftRight_eq_div_pow]
    exact Nat.mod_eq_of_lt (lt_of_le_of_lt (Nat.div_le_self _ _) a.isLt)
  · rw [BitVec.ushiftRight_eq_zero (by omega)]

theorem aluShrA_eq (a n : Word) : aluShrA a n = a.sshiftRight n.toNat := by
  unfold aluShrA
  split
  · rw [← Int.shiftRight_eq_div_pow, ← BitVec.toInt_sshiftRight, BitVec.ofInt_toInt]
  · rename_i hn
    have hsign : a.sshiftRight n.toNat = if a.msb = true then BitVec.allOnes 32 else 0#32 := by
      ext i hi
      rw [BitVec.getElem_sshiftRight, dif_neg (by omega)]
      cases a.msb with
      | true => exact (BitVec.getElem_allOnes i hi).symm
      | false => exact (BitVec.getElem_zero hi).symm
    exact hsign.symm

theorem compareUnsigned_eq (a b : Word) :
    compareUnsigned a b = if a = b then 1#32 else if b < a then 2#32 else 3#32 := by
  simp only [compareUnsigned, BitVec.toNat_inj, BitVec.lt_def]

theorem compareSigned_eq (a b : Word) :
    compareSigned a b = if a = b then 1#32 else if b.slt a then 2#32 else 3#32 := by
  simp only [compareSigned, BitVec.toInt_inj, BitVec.slt_iff_toInt_lt]

theorem condTaken_eq (c : Cond) (status : Word) :
    condTaken c status = (c == 0#5 || status == c.zeroExtend 32) := rfl

/-- A zero-extended field counts as itself (R8). -/
theorem toNat_zext {n : Nat} (v : BitVec n) (h : n ≤ 32) : (zext v).toNat = v.toNat :=
  BitVec.toNat_setWidth_of_le h

end Sys2Proof.Machine
end

section
/-!
PROOFS. Statement O25: the four stage operations of an instruction, one after another, and what its rule documents.

`StageOps.Commits` says what the operations after decode make of a decoded record, of the registers and of the memory. It
is shown once per shape of instruction rule (R120 to R193), and each instruction's rule is then read off the table `opsOf`
(`opsOf_commits_rule`). `passage_completes` and `passage_faults` put the four operations into the machine.
-/

namespace Sys2Proof

/-! ## The condition of a decoded jump (R96, R103) -/

/-- The condition field of a jump (R180). -/
def Instr.condition : Instr → Option Cond
  | .jmp _ c => some c
  | .jmpi _ c => some c
  | .jmps _ c => some c
  | .jmpsi _ c => some c
  | _ => none

theorem decodeAlu_condition {w : Word} {i : Instr} (h : decodeAlu w = .ok i) : i.condition = none := by
  unfold decodeAlu at h
  split at h <;> cases h <;> rfl

theorem decodeMemory_condition {w : Word} {i : Instr} (h : decodeMemory w = .ok i) : i.condition = none := by
  unfold decodeMemory at h
  split at h <;> cases h <;> rfl

theorem decodeControl_condition {w : Word} {i : Instr} (h : decodeControl w = .ok i) :
    i.condition = none ∨ i.condition = some (condField w) := by
  unfold decodeControl at h
  split at h <;> cases h <;> simp [Instr.condition]

/-- A jump that a word decodes to has the word's condition field. -/
theorem condition_of_decodeWord {w : Word} {i : Instr} {c : Cond} (h : decodeWord w = .ok i)
    (hc : i.condition = some c) : c = condField w := by
  unfold decodeWord at h
  split at h
  · rw [decodeAlu_condition h] at hc
    cases hc
  · rw [decodeMemory_condition h] at hc
    cases hc
  · rcases decodeControl_condition h with hn | hs
    · rw [hn] at hc
      cases hc
    · exact Option.some.inj (hc.symm.trans hs)
  · cases h

end Sys2Proof

namespace Sys2Proof.Machine

/-! ## What the operations after decode make of a record -/

/-- On the decoded record `r₀`, the registers `x` and the chain `ch`, the three operations after decode answer, leave the
registers `y` and the memory `mem`, and keep the record's word and instruction. -/
def StageOps.Commits (ops : StageOps) (c : Config) (r₀ : InFlight) (x : Regs) (ch : Chain) (y : Regs) (mem : Word → Word) :
    Prop :=
  ∃ r acc, ops.execute r₀ = .next r ∧ ops.accessMemory r ch = .next acc ∧ ops.writeBack acc.record x = .next y ∧
    acc.record.word = r₀.word ∧ acc.record.op = r₀.op ∧ ∀ a, acc.chain.view c a = mem a

section Shapes

variable {dec : Regs → InFlight → InFlight} {c : Config} {r₀ : InFlight} {x : Regs} {ch : Chain}

/-- Arithmetic, shift and logic (R148, R169, R177). -/
theorem commits_binary {f : Word → Word → Word} {rd : Reg} {a b v : Word} (hd : r₀.rd = some rd) (ha : r₀.a = some a)
    (hb : r₀.b = some b) (hv : f a b = v) :
    StageOps.Commits ⟨dec, executeBinary f, accessNothing, writeResult⟩ c r₀ x ch (writeReg x rd v) (ch.view c) :=
  ⟨_, _, executeBinary_set ha hb, rfl, writeResult_set hd (congrArg some hv), rfl, rfl, fun _ => rfl⟩

/-- The divides, by a divisor other than 0 (R144 to R147). -/
theorem commits_divide {f : Word → Word → Word} {rd : Reg} {a b v : Word} (hd : r₀.rd = some rd) (ha : r₀.a = some a)
    (hb : r₀.b = some b) (h0 : b ≠ 0#32) (hv : f a b = v) :
    StageOps.Commits ⟨dec, executeDivide f, accessNothing, writeResult⟩ c r₀ x ch (writeReg x rd v) (ch.view c) :=
  ⟨_, _, executeDivide_set ha hb h0, rfl, writeResult_set hd (congrArg some hv), rfl, rfl, fun _ => rfl⟩

/-- Every instruction that only writes back: execute and access-memory just move its record. -/
theorem commits_writeBack {wb : InFlight → Regs → Result Regs} {y : Regs} (hw : wb r₀ x = .next y) :
    StageOps.Commits ⟨dec, executeNothing, accessNothing, wb⟩ c r₀ x ch y (ch.view c) :=
  ⟨_, _, rfl, rfl, hw, rfl, rfl, fun _ => rfl⟩

/-- The loads (R120, R121). -/
theorem commits_load {rd : Reg} {t : Word} (hok : ch.ok c = true) (hd : r₀.rd = some rd) (ht : r₀.addr = some t) :
    StageOps.Commits ⟨dec, executeNothing, accessLoad c, writeResult⟩ c r₀ x ch (writeReg x rd (ch.view c t))
      (ch.view c) := by
  obtain ⟨n, ch', hread, -, hview⟩ := Chain.memRead_view t hok
  exact ⟨_, _, rfl, accessLoad_set ht hread, writeResult_set hd rfl, rfl, rfl, hview⟩

/-- The stores (R122, R123). -/
theorem commits_store {t v : Word} (hok : ch.ok c = true) (ht : r₀.addr = some t) (hv : r₀.a = some v) :
    StageOps.Commits ⟨dec, executeNothing, accessStore c, writeNothing⟩ c r₀ x ch x
      (fun a => if a = t then v else ch.view c a) := by
  obtain ⟨n, ch', hwrite, -, hview⟩ := Chain.memWrite_view t v hok
  exact ⟨_, _, rfl, accessStore_set ht hv hwrite, rfl, rfl, rfl, hview⟩

/-- INT (R191). -/
theorem commits_recordCode {v : Word} {y : Regs} {wb : InFlight → Regs → Result Regs} (hok : ch.ok c = true)
    (hv : r₀.a = some v) (hw : wb r₀ x = .next y) :
    StageOps.Commits ⟨dec, executeNothing, accessRecordCode c, wb⟩ c r₀ x ch y
      (fun a => if a = c.intCodeAddr then v else ch.view c a) := by
  obtain ⟨n, ch', hwrite, -, hview⟩ := Chain.memWrite_view c.intCodeAddr v hok
  exact ⟨_, _, rfl, accessRecordCode_set hv hwrite, hw, rfl, rfl, hview⟩

end Shapes

/-- A jump's write-back, taken or not (R180, R185). -/
theorem writeJump_set {tk : Cond → Word → Bool} {go : Regs → Word → Regs} {r : InFlight} {x : Regs} {t : Word}
    (ht : r.addr = some t) :
    writeJump tk go r x = .next (if tk r.cond (readReg x Reg.status) = true then go x t else x) := by
  by_cases hc : tk r.cond (readReg x Reg.status) = true
  · rw [writeJump_taken ht hc, if_pos hc]
  · rw [writeJump_notTaken ht (Bool.eq_false_iff.2 hc), if_neg hc]

/-- Entering an interrupt, as the two register writes of R191. -/
theorem enterInterrupt_eq (x : Regs) :
    enterInterrupt x =
      writeReg (writeReg x Reg.intLink (readReg x Reg.pc + 1#32)) Reg.pc (readReg x Reg.intHandler) := by
  rw [enterInterrupt, readReg_writeReg_other x _ (show Reg.intHandler ≠ Reg.intLink by decide), jumpTo]

/-! ## The table against the rules -/

/-- The record that decode leaves of the word `w`, decoded to `i` (R103, R205). -/
def decodedRecord (i : Instr) (w : Word) (c : Config) (x : Regs) : InFlight :=
  (opsOf i c).decode x (InFlight.blank i w (condField w))

theorem decodedRecord_word (i : Instr) (w : Word) (c : Config) (x : Regs) : (decodedRecord i w c x).word = w := by
  cases i <;> rfl

theorem decodedRecord_op (i : Instr) (w : Word) (c : Config) (x : Regs) : (decodedRecord i w c x).op = i := by
  cases i <;> rfl

/-- The operations of every instruction, on its decoded record, leave the documented registers and memory. -/
theorem opsOf_commits_rule {i : Instr} {w : Word} {c : Config} {x : Regs} {ch : Chain} (hw : decodeWord w = .ok i)
    (hok : ch.ok c = true) (h0 : divisor i x ≠ some 0#32) :
    (opsOf i c).Commits c (decodedRecord i w c x) x ch (ruleRegs i x (ch.view c))
      (ruleMem i x c.intCodeAddr (ch.view c)) := by
  have hcond : ∀ k, i.condition = some k → k = condField w := fun k => condition_of_decodeWord hw
  cases i with
  | addu | addui | adds | addsi => exact commits_binary rfl rfl rfl (aluAdd_eq _ _)
  | subu | subui | subs | subsi => exact commits_binary rfl rfl rfl (aluSub_eq _ _)
  | mulu | mului | muls | mulsi => exact commits_binary rfl rfl rfl (aluMul_eq _ _)
  | divu | divui => exact commits_divide rfl rfl rfl (fun hb => h0 (congrArg some hb)) (aluDivU_eq _ _)
  | divs | divsi => exact commits_divide rfl rfl rfl (fun hb => h0 (congrArg some hb)) (aluDivS_eq _ _)
  | cmpu => exact commits_writeBack ((writeCompare_set rfl rfl).trans (by rw [compareUnsigned_eq]; rfl))
  | cmps => exact commits_writeBack ((writeCompare_set rfl rfl).trans (by rw [compareSigned_eq]; rfl))
  | asl | lsl => exact commits_binary rfl rfl rfl (aluShl_eq _ _)
  | asr => exact commits_binary rfl rfl rfl (aluShrA_eq _ _)
  | lsr => exact commits_binary rfl rfl rfl (aluShrL_eq _ _)
  | asli rd imm | lsli rd imm => exact commits_binary rfl rfl rfl (by rw [aluShl_eq, toNat_zext imm (by decide)])
  | asri rd imm => exact commits_binary rfl rfl rfl (by rw [aluShrA_eq, toNat_zext imm (by decide)])
  | lsri rd imm => exact commits_binary rfl rfl rfl (by rw [aluShrL_eq, toNat_zext imm (by decide)])
  | and | andi | or | ori | xor | xori => exact commits_binary rfl rfl rfl rfl
  | not | mov => exact commits_writeBack (writeOfA_set rfl rfl)
  | nop | rfi => exact commits_writeBack rfl
  | ldr | ldri => exact commits_load hok rfl rfl
  | str | stri => exact commits_store hok rfl rfl
  | jmp _ k | jmpi _ k | jmps _ k | jmpsi _ k =>
    obtain rfl := hcond k rfl
    exact commits_writeBack (writeJump_set rfl)
  | sih => exact commits_writeBack (writeHandler_set rfl)
  | int => exact commits_recordCode hok rfl (congrArg Host.Outcome.next (enterInterrupt_eq x))

/-- An instruction that has a divisor divides by it, as its second operand, at execute (R144 to R147). -/
theorem opsOf_divides {i : Instr} {x : Regs} {b : Word} (w : Word) (c : Config) (h : divisor i x = some b) :
    ∃ f a, (opsOf i c).execute = executeDivide f ∧ (decodedRecord i w c x).a = some a ∧
      (decodedRecord i w c x).b = some b := by
  cases i with
  | divu | divui | divs | divsi => exact ⟨_, _, rfl, rfl, h⟩
  | _ => cases h

/-- A divide whose divisor is 0 fails at execute (R244). -/
theorem opsOf_execute_zero {i : Instr} {x : Regs} (w : Word) (c : Config) (h : divisor i x = some 0#32) :
    (opsOf i c).execute (decodedRecord i w c x) = .fault (.arithmeticError w) := by
  obtain ⟨f, a, hf, ha, hb⟩ := opsOf_divides w c h
  rw [hf, executeDivide_zero ha hb, decodedRecord_word]

/-! ## The four operations in the machine -/

theorem exec_decode {i : Instr} {s : State} {w : Word} (h : s.stageOp = .decode) (hw : s.slotF = some w) :
    exec i s = .next { s with slotD := some (decodedRecord i w s.config s.regs) } := by
  rw [exec_eq_runStage]
  exact runStage_decode h hw

theorem exec_execute {i : Instr} {s : State} {r r' : InFlight} (h : s.stageOp = .execute) (hr : s.slotD = some r)
    (he : (opsOf i s.config).execute r = .next r') : exec i s = .next { s with slotX := some r' } := by
  rw [exec_eq_runStage]
  exact runStage_execute h hr he

theorem exec_execute_fault {i : Instr} {s : State} {r : InFlight} {f : Fault} (h : s.stageOp = .execute)
    (hr : s.slotD = some r) (he : (opsOf i s.config).execute r = .fault f) : exec i s = .next (s.abort f) := by
  rw [exec_eq_runStage]
  exact runStage_execute_fault h hr he

theorem exec_accessMemory {i : Instr} {s : State} {r : InFlight} {acc : Access} (h : s.stageOp = .accessMemory)
    (hr : s.slotX = some r) (ha : (opsOf i s.config).accessMemory r s.chain = .next acc) :
    exec i s =
      .next { s with
        slotM := some acc.record, chain := acc.chain, cycleCount := s.cycleCount + BitVec.ofNat 64 acc.cycles } := by
  rw [exec_eq_runStage]
  exact runStage_accessMemory h hr ha

theorem exec_writeBack {i : Instr} {s : State} {r : InFlight} {x : Regs} (h : s.stageOp = .writeBack)
    (hr : s.slotM = some r) (hw : (opsOf i s.config).writeBack r s.regs = .next x) :
    exec i s = .next { s with slotW := some r, regs := x } := by
  rw [exec_eq_runStage]
  exact runStage_writeBack h hr hw

/-- The machine after the four operations have completed on the word `w`: `r₀` is what decode left, `r` what execute
left, `acc` what access-memory handed on, and `y` the registers after write-back. -/
def State.passed (s : State) (w : Word) (r₀ r : InFlight) (acc : Access) (y : Regs) : State :=
  { s with
    slotF := some w, slotD := some r₀, slotX := some r, slotM := some acc.record, slotW := some acc.record
    chain := acc.chain, cycleCount := s.cycleCount + BitVec.ofNat 64 acc.cycles, regs := y, stageOp := .writeBack }

theorem passage_completes {i : Instr} {w : Word} {s : State} {r : InFlight} {acc : Access} {y : Regs}
    (hs : s.runState ≠ .faulted)
    (he : (opsOf i s.config).execute (decodedRecord i w s.config s.regs) = .next r)
    (ha : (opsOf i s.config).accessMemory r s.chain = .next acc)
    (hw : (opsOf i s.config).writeBack acc.record s.regs = .next y) :
    passage i w s = .next (s.passed w (decodedRecord i w s.config s.regs) r acc y) := by
  refine Eq.trans (perform_next (exec_decode rfl rfl) hs) ?_
  refine Eq.trans (perform_next (exec_execute rfl rfl he) hs) ?_
  refine Eq.trans (perform_next (exec_accessMemory rfl rfl ha) hs) ?_
  exact exec_writeBack rfl rfl hw

theorem passage_faults {i : Instr} {w : Word} {s : State} {f : Fault} (hs : s.runState ≠ .faulted)
    (he : (opsOf i s.config).execute (decodedRecord i w s.config s.regs) = .fault f) :
    passage i w s =
      .next ({ s with
        slotF := some w, slotD := some (decodedRecord i w s.config s.regs), stageOp := .execute }.abort f) := by
  refine Eq.trans (perform_next (exec_decode rfl rfl) hs) ?_
  exact perform_taken (exec_execute_fault rfl rfl he) rfl

theorem State.runState_ne_faulted {s : State} (h : s.active = true) : s.runState ≠ .faulted := by
  intro hf
  simp [State.active, hf] at h

/-- Settles O25: the operations of the table leave what the rules document, and a divisor of 0 stops them at execute. -/
theorem stagesReproduceTheDocumentedMutation : Obligations.StagesReproduceTheDocumentedMutation := by
  intro w i s hw hactive hok
  have hs := State.runState_ne_faulted hactive
  constructor
  · intro hzero
    exact ⟨_, passage_faults hs (opsOf_execute_zero w s.config hzero), rfl, rfl, rfl, rfl, rfl, rfl, rfl, rfl, rfl⟩
  · intro hdiv
    obtain ⟨r, acc, he, ha, hwb, hword, hop, hmem⟩ := opsOf_commits_rule hw hok hdiv
    rw [decodedRecord_word] at hword
    rw [decodedRecord_op] at hop
    exact ⟨_, passage_completes hs he ha hwb, rfl, hmem, rfl, ⟨_, rfl, hword, hop⟩, rfl, rfl, rfl, rfl, rfl⟩

end Sys2Proof.Machine
end

section
/-!
PROOFS. What a step can do, read off its actions (R201, R212): each stage operation that answers did one thing, only
execute and decode can fail, and a step is the seven actions in order, or the ones before the failing one.
-/

namespace Sys2Proof.Machine

/-! ## The shared operations, from what they answer -/

theorem needField_next {α β : Type} {op : StageOp} {o : Option α} {k : α → Result β} {y : β}
    (h : needField op o k = .next y) : ∃ x, o = some x ∧ k x = .next y := by
  cases o with
  | none => cases h
  | some x => exact ⟨x, rfl, h⟩

theorem needField_fault {α β : Type} {op : StageOp} {o : Option α} {k : α → Result β} {f : Fault}
    (h : needField op o k = .fault f) : ∃ x, o = some x ∧ k x = .fault f := by
  cases o with
  | none => cases h
  | some x => exact ⟨x, rfl, h⟩

theorem needField_ne_fault {α β : Type} {op : StageOp} {o : Option α} {k : α → Result β} {f : Fault}
    (h : ∀ x, k x ≠ .fault f) : needField op o k ≠ .fault f := by
  intro hf
  obtain ⟨x, -, hx⟩ := needField_fault hf
  exact h x hx

theorem executeBinary_next {op : Word → Word → Word} {r r' : InFlight} (h : executeBinary op r = .next r') :
    ∃ v, r' = { r with res := some v } := by
  obtain ⟨a, -, h⟩ := needField_next h
  obtain ⟨b, -, h⟩ := needField_next h
  cases h
  exact ⟨_, rfl⟩

theorem executeBinary_ne_fault {op : Word → Word → Word} {r : InFlight} {f : Fault} : executeBinary op r ≠ .fault f :=
  needField_ne_fault fun _ => needField_ne_fault fun _ => nofun

theorem executeDivide_next {op : Word → Word → Word} {r r' : InFlight} (h : executeDivide op r = .next r') :
    ∃ v, r' = { r with res := some v } := by
  obtain ⟨a, -, h⟩ := needField_next h
  obtain ⟨b, -, h⟩ := needField_next h
  split at h
  · cases h
  · cases h
    exact ⟨_, rfl⟩

/-- The only failure of a divide (R244). -/
theorem executeDivide_fault {op : Word → Word → Word} {r : InFlight} {f : Fault} (h : executeDivide op r = .fault f) :
    r.b = some 0#32 ∧ f = .arithmeticError r.word := by
  obtain ⟨a, -, h⟩ := needField_fault h
  obtain ⟨b, hb, h⟩ := needField_fault h
  split at h
  · rename_i h0
    cases h
    exact ⟨h0 ▸ hb, rfl⟩
  · cases h

theorem accessLoad_next {c : Config} {r : InFlight} {ch : Chain} {acc : Access} (h : accessLoad c r ch = .next acc) :
    ∃ a n v ch', r.addr = some a ∧ ch.memRead c a = (.wait n v, ch') ∧
      acc = { record := { r with res := some v }, chain := ch', cycles := n } := by
  obtain ⟨a, ha, -⟩ := needField_next h
  obtain ⟨n, v, ch', hread⟩ := memRead_waits c ch a
  rw [accessLoad_set ha hread] at h
  cases h
  exact ⟨a, n, v, ch', ha, hread, rfl⟩

theorem accessLoad_ne_fault {c : Config} {r : InFlight} {ch : Chain} {f : Fault} : accessLoad c r ch ≠ .fault f := by
  intro h
  obtain ⟨a, ha, -⟩ := needField_fault h
  obtain ⟨n, v, ch', hread⟩ := memRead_waits c ch a
  rw [accessLoad_set ha hread] at h
  cases h

/-- A write always completes over this DRAM (R54). -/
theorem accessWrite_eq (c : Config) (r : InFlight) (ch : Chain) (a v : Word) :
    ∃ n ch', ch.memWrite c a v = (.wait n (), ch') ∧
      accessWrite c r ch a v = .next { record := r, chain := ch', cycles := n } := by
  obtain ⟨n, ch', hwrite⟩ := memWrite_waits c ch a v
  exact ⟨n, ch', hwrite, accessWrite_set hwrite⟩

theorem accessWrite_next {c : Config} {r : InFlight} {ch : Chain} {a v : Word} {acc : Access}
    (h : accessWrite c r ch a v = .next acc) :
    ∃ n ch', ch.memWrite c a v = (.wait n (), ch') ∧ acc = { record := r, chain := ch', cycles := n } := by
  obtain ⟨n, ch', hwrite, heq⟩ := accessWrite_eq c r ch a v
  rw [heq] at h
  cases h
  exact ⟨n, ch', hwrite, rfl⟩

theorem accessWrite_ne_fault {c : Config} {r : InFlight} {ch : Chain} {a v : Word} {f : Fault} :
    accessWrite c r ch a v ≠ .fault f := by
  obtain ⟨n, ch', -, heq⟩ := accessWrite_eq c r ch a v
  rw [heq]
  nofun

theorem accessStore_next {c : Config} {r : InFlight} {ch : Chain} {acc : Access} (h : accessStore c r ch = .next acc) :
    ∃ a v n ch', r.addr = some a ∧ r.a = some v ∧ ch.memWrite c a v = (.wait n (), ch') ∧
      acc = { record := r, chain := ch', cycles := n } := by
  obtain ⟨a, ha, h⟩ := needField_next h
  obtain ⟨v, hv, h⟩ := needField_next h
  obtain ⟨n, ch', hwrite, hacc⟩ := accessWrite_next h
  exact ⟨a, v, n, ch', ha, hv, hwrite, hacc⟩

theorem accessStore_ne_fault {c : Config} {r : InFlight} {ch : Chain} {f : Fault} : accessStore c r ch ≠ .fault f :=
  needField_ne_fault fun _ => needField_ne_fault fun _ => accessWrite_ne_fault

theorem accessRecordCode_next {c : Config} {r : InFlight} {ch : Chain} {acc : Access}
    (h : accessRecordCode c r ch = .next acc) :
    ∃ v n ch', r.a = some v ∧ ch.memWrite c c.intCodeAddr v = (.wait n (), ch') ∧
      acc = { record := r, chain := ch', cycles := n } := by
  obtain ⟨v, hv, h⟩ := needField_next h
  obtain ⟨n, ch', hwrite, hacc⟩ := accessWrite_next h
  exact ⟨v, n, ch', hv, hwrite, hacc⟩

theorem accessRecordCode_ne_fault {c : Config} {r : InFlight} {ch : Chain} {f : Fault} :
    accessRecordCode c r ch ≠ .fault f :=
  needField_ne_fault fun _ => accessWrite_ne_fault

theorem writeResult_next {r : InFlight} {x y : Regs} (h : writeResult r x = .next y) :
    ∃ d v, r.rd = some d ∧ r.res = some v ∧ y = writeReg x d v := by
  obtain ⟨d, hd, h⟩ := needField_next h
  obtain ⟨v, hv, h⟩ := needField_next h
  cases h
  exact ⟨d, v, hd, hv, rfl⟩

theorem writeResult_ne_fault {r : InFlight} {x : Regs} {f : Fault} : writeResult r x ≠ .fault f :=
  needField_ne_fault fun _ => needField_ne_fault fun _ => nofun

theorem writeOfA_next {g : Word → Word} {r : InFlight} {x y : Regs} (h : writeOfA g r x = .next y) :
    ∃ d a, r.rd = some d ∧ r.a = some a ∧ y = writeReg x d (g a) := by
  obtain ⟨d, hd, h⟩ := needField_next h
  obtain ⟨a, ha, h⟩ := needField_next h
  cases h
  exact ⟨d, a, hd, ha, rfl⟩

theorem writeOfA_ne_fault {g : Word → Word} {r : InFlight} {x : Regs} {f : Fault} : writeOfA g r x ≠ .fault f :=
  needField_ne_fault fun _ => needField_ne_fault fun _ => nofun

theorem writeCompare_ne_fault {cmp : Word → Word → Word} {r : InFlight} {x : Regs} {f : Fault} :
    writeCompare cmp r x ≠ .fault f :=
  needField_ne_fault fun _ => needField_ne_fault fun _ => nofun

theorem writeJump_next {tk : Cond → Word → Bool} {go : Regs → Word → Regs} {r : InFlight} {x y : Regs}
    (h : writeJump tk go r x = .next y) : y = x ∨ ∃ t, r.addr = some t ∧ y = go x t := by
  obtain ⟨t, ht, h⟩ := needField_next h
  split at h
  · cases h
    exact .inr ⟨t, ht, rfl⟩
  · cases h
    exact .inl rfl

theorem writeJump_ne_fault {tk : Cond → Word → Bool} {go : Regs → Word → Regs} {r : InFlight} {x : Regs} {f : Fault} :
    writeJump tk go r x ≠ .fault f :=
  needField_ne_fault fun _ => by split <;> nofun

theorem writeHandler_next {r : InFlight} {x y : Regs} (h : writeHandler r x = .next y) :
    ∃ a, r.a = some a ∧ y = writeReg x Reg.intHandler a := by
  obtain ⟨a, ha, h⟩ := needField_next h
  cases h
  exact ⟨a, ha, rfl⟩

theorem writeHandler_ne_fault {r : InFlight} {x : Regs} {f : Fault} : writeHandler r x ≠ .fault f :=
  needField_ne_fault fun _ => nofun

/-! ## The memory port keeps the chain's form -/

theorem Chain.memRead_ok {c : Config} {ch ch' : Chain} {a v : Word} {n : Nat} (h : ch.memRead c a = (.wait n v, ch'))
    (hok : ch.ok c = true) : ch'.ok c = true := by
  obtain ⟨_, _, hread, hok', -⟩ := Chain.memRead_view a hok
  cases h.symm.trans hread
  exact hok'

theorem Chain.memWrite_ok {c : Config} {ch ch' : Chain} {a v : Word} {n : Nat}
    (h : ch.memWrite c a v = (.wait n (), ch')) (hok : ch.ok c = true) : ch'.ok c = true := by
  obtain ⟨_, _, hwrite, hok', -⟩ := Chain.memWrite_view a v hok
  cases h.symm.trans hwrite
  exact hok'

/-! ## The operations of every instruction -/

/-- Execute changes no field but `res`, which it sets for the computing instructions (R204). -/
theorem opsOf_execute_next {i : Instr} {c : Config} {r r' : InFlight} (h : (opsOf i c).execute r = .next r') :
    ∃ v, r' = { r with res := v } ∧ v.isSome = (r.res.isSome || resAtExecute i) := by
  have computes {v : Word} : (some v).isSome = (r.res.isSome || true) := (Bool.or_true _).symm
  cases i with
  | divu | divui | divs | divsi =>
    obtain ⟨v, rfl⟩ := executeDivide_next h
    exact ⟨some v, rfl, computes⟩
  | cmpu | cmps | not | mov | nop | ldr | ldri | str | stri | jmp | jmpi | jmps | jmpsi | sih | int | rfi =>
    cases h
    exact ⟨r.res, rfl, (Bool.or_false _).symm⟩
  | _ =>
    obtain ⟨v, rfl⟩ := executeBinary_next h
    exact ⟨some v, rfl, computes⟩

/-- Execute fails on a divide by 0 only (R244). -/
theorem opsOf_execute_fault {i : Instr} {c : Config} {r : InFlight} {f : Fault} (h : (opsOf i c).execute r = .fault f) :
    r.b = some 0#32 ∧ f = .arithmeticError r.word := by
  cases i with
  | divu | divui | divs | divsi => exact executeDivide_fault h
  | cmpu | cmps | not | mov | nop | ldr | ldri | str | stri | jmp | jmpi | jmps | jmpsi | sih | int | rfi => cases h
  | _ => exact absurd h executeBinary_ne_fault

/-- Access-memory changes no field but `res`, which it sets for the loads, and keeps the chain's form (R69, R203). -/
theorem opsOf_accessMemory_next {i : Instr} {c : Config} {r : InFlight} {ch : Chain} {acc : Access}
    (h : (opsOf i c).accessMemory r ch = .next acc) :
    (∃ v, acc.record = { r with res := v } ∧ v.isSome = (r.res.isSome || resAtAccess i)) ∧
      (ch.ok c = true → acc.chain.ok c = true) := by
  cases i with
  | ldr | ldri =>
    obtain ⟨a, n, v, ch', -, hread, rfl⟩ := accessLoad_next h
    exact ⟨⟨some v, rfl, (Bool.or_true _).symm⟩, Chain.memRead_ok hread⟩
  | str | stri =>
    obtain ⟨a, v, n, ch', -, -, hwrite, rfl⟩ := accessStore_next h
    exact ⟨⟨r.res, rfl, (Bool.or_false _).symm⟩, Chain.memWrite_ok hwrite⟩
  | int =>
    obtain ⟨v, n, ch', -, hwrite, rfl⟩ := accessRecordCode_next h
    exact ⟨⟨r.res, rfl, (Bool.or_false _).symm⟩, Chain.memWrite_ok hwrite⟩
  | _ =>
    cases h
    exact ⟨⟨r.res, rfl, (Bool.or_false _).symm⟩, id⟩

/-- No access-memory operation fails over this DRAM (R54, R242). -/
theorem opsOf_accessMemory_ne_fault {i : Instr} {c : Config} {r : InFlight} {ch : Chain} {f : Fault} :
    (opsOf i c).accessMemory r ch ≠ .fault f := by
  cases i with
  | ldr | ldri => exact accessLoad_ne_fault
  | str | stri => exact accessStore_ne_fault
  | int => exact accessRecordCode_ne_fault
  | _ => nofun

/-- No write-back fails. -/
theorem opsOf_writeBack_ne_fault {i : Instr} {c : Config} {r : InFlight} {x : Regs} {f : Fault} :
    (opsOf i c).writeBack r x ≠ .fault f := by
  cases i with
  | cmpu | cmps => exact writeCompare_ne_fault
  | not | mov => exact writeOfA_ne_fault
  | jmp | jmpi | jmps | jmpsi => exact writeJump_ne_fault
  | sih => exact writeHandler_ne_fault
  | nop | str | stri | int | rfi => nofun
  | _ => exact writeResult_ne_fault

end Sys2Proof.Machine
end

section
/-!
PROOFS. What each action of a step can do, and what a step can do (R201, R212): it completes all seven actions, or it
ends FAULTED at execute or at decode.
-/

namespace Sys2Proof.Machine

/-! ## One stage operation in the machine, from what it answers -/

theorem exec_writeBack_next {i : Instr} {s t : State} (h : s.stageOp = .writeBack) (he : exec i s = .next t) :
    ∃ r x, s.slotM = some r ∧ (opsOf i s.config).writeBack r s.regs = .next x ∧
      t = { s with slotW := some r, regs := x } := by
  rw [exec_eq_runStage] at he
  rcases runStage_cases he with ⟨hs, -⟩ | ⟨hs, -⟩ | ⟨hs, -⟩ | ⟨-, r, hr, ⟨x, hx, ht⟩ | ⟨f, hf, -⟩⟩
  · cases h.symm.trans hs
  · cases h.symm.trans hs
  · cases h.symm.trans hs
  · exact ⟨r, x, hr, hx, ht⟩
  · exact absurd hf opsOf_writeBack_ne_fault

theorem exec_accessMemory_next {i : Instr} {s t : State} (h : s.stageOp = .accessMemory) (he : exec i s = .next t) :
    ∃ r acc, s.slotX = some r ∧ (opsOf i s.config).accessMemory r s.chain = .next acc ∧
      t = { s with
        slotM := some acc.record, chain := acc.chain, cycleCount := s.cycleCount + BitVec.ofNat 64 acc.cycles } := by
  rw [exec_eq_runStage] at he
  rcases runStage_cases he with ⟨hs, -⟩ | ⟨hs, -⟩ | ⟨-, r, hr, ⟨acc, ha, ht⟩ | ⟨f, hf, -⟩⟩ | ⟨hs, -⟩
  · cases h.symm.trans hs
  · cases h.symm.trans hs
  · exact ⟨r, acc, hr, ha, ht⟩
  · exact absurd hf opsOf_accessMemory_ne_fault
  · cases h.symm.trans hs

theorem exec_execute_next {i : Instr} {s t : State} (h : s.stageOp = .execute) (he : exec i s = .next t) :
    ∃ r, s.slotD = some r ∧
      ((∃ r', (opsOf i s.config).execute r = .next r' ∧ t = { s with slotX := some r' }) ∨
        (r.b = some 0#32 ∧ t = s.abort (.arithmeticError r.word))) := by
  rw [exec_eq_runStage] at he
  rcases runStage_cases he with ⟨hs, -⟩ | ⟨-, r, hr, hnext | ⟨f, hf, ht⟩⟩ | ⟨hs, -⟩ | ⟨hs, -⟩
  · cases h.symm.trans hs
  · exact ⟨r, hr, .inl hnext⟩
  · obtain ⟨hb, rfl⟩ := opsOf_execute_fault hf
    exact ⟨r, hr, .inr ⟨hb, ht⟩⟩
  · cases h.symm.trans hs
  · cases h.symm.trans hs

/-! ## The actions, from what they answer -/

theorem actWriteBack_next {s t : State} (h : actWriteBack s = .next t) :
    (s.slotM = none ∧ t = { s with slotW := none, stageOp := .writeBack }) ∨
      ∃ r x, s.slotM = some r ∧ (opsOf r.op s.config).writeBack r s.regs = .next x ∧
        t = { s with slotW := some r, regs := x, stageOp := .writeBack } := by
  rcases Option.eq_none_or_eq_some s.slotM with hm | ⟨r, hm⟩
  · rw [actWriteBack_empty hm] at h
    cases h
    exact .inl ⟨hm, rfl⟩
  · rw [actWriteBack_filled hm] at h
    obtain ⟨r', x, hr', hwrite, rfl⟩ := exec_writeBack_next rfl h
    cases hm.symm.trans hr'
    exact .inr ⟨r, x, hm, hwrite, rfl⟩

/-- Write-back hands on the record it took, and changes registers only. -/
theorem actWriteBack_frame {s t : State} (h : actWriteBack s = .next t) :
    ∃ x, t = { s with slotW := s.slotM, regs := x, stageOp := .writeBack } := by
  rcases actWriteBack_next h with ⟨hm, rfl⟩ | ⟨r, x, hm, -, rfl⟩
  · exact ⟨s.regs, by rw [hm]⟩
  · exact ⟨x, by rw [hm]⟩

theorem actAccessMemory_next {s t : State} (h : actAccessMemory s = .next t) :
    (s.slotX = none ∧ t = { s with slotM := none, stageOp := .accessMemory }) ∨
      ∃ r acc, s.slotX = some r ∧ (opsOf r.op s.config).accessMemory r s.chain = .next acc ∧
        t = { s with
          slotM := some acc.record, chain := acc.chain, cycleCount := s.cycleCount + BitVec.ofNat 64 acc.cycles
          stageOp := .accessMemory } := by
  rcases Option.eq_none_or_eq_some s.slotX with hx | ⟨r, hx⟩
  · rw [actAccessMemory_empty hx] at h
    cases h
    exact .inl ⟨hx, rfl⟩
  · rw [actAccessMemory_filled hx] at h
    obtain ⟨r', acc, hr', hacc, rfl⟩ := exec_accessMemory_next rfl h
    cases hx.symm.trans hr'
    exact .inr ⟨r, acc, hx, hacc, rfl⟩

/-- Execute moves the record, or takes the ArithmeticError of a divide by 0. -/
theorem actExecute_next {s t : State} (h : actExecute s = .next t) :
    (s.slotD = none ∧ t = { s with slotX := none, stageOp := .execute }) ∨
      ∃ r, s.slotD = some r ∧
        ((∃ r', (opsOf r.op s.config).execute r = .next r' ∧ t = { s with slotX := some r', stageOp := .execute }) ∨
          (r.b = some 0#32 ∧ t = s.abort (.arithmeticError r.word))) := by
  rcases Option.eq_none_or_eq_some s.slotD with hd | ⟨r, hd⟩
  · rw [actExecute_empty hd] at h
    cases h
    exact .inl ⟨hd, rfl⟩
  · rw [actExecute_filled hd] at h
    obtain ⟨r', hr', hcases⟩ := exec_execute_next rfl h
    cases hd.symm.trans hr'
    exact .inr ⟨r, hd, hcases⟩

/-- Decode builds the record of a legal word, or takes the DecodeError of an illegal one. -/
theorem actDecode_next {s t : State} (h : actDecode s = .next t) :
    (s.slotF = none ∧ t = { s with slotD := none, stageOp := .decode }) ∨
      ∃ w, s.slotF = some w ∧
        ((∃ i, decodeWord w = .ok i ∧
            t = { s with slotD := some (decodedRecord i w s.config s.regs), stageOp := .decode }) ∨
          ((∃ e, decodeWord w = .error e) ∧ t = s.abort (.decodeError w))) := by
  rcases Option.eq_none_or_eq_some s.slotF with hf | ⟨w, hf⟩
  · rw [actDecode_empty hf] at h
    cases h
    exact .inl ⟨hf, rfl⟩
  · refine .inr ⟨w, hf, ?_⟩
    cases hw : decodeWord w with
    | ok i =>
      rw [actDecode_legal hf hw, exec_decode (s := { s with stageOp := .decode }) rfl hf] at h
      cases h
      exact .inl ⟨i, rfl, rfl⟩
    | error e =>
      rw [actDecode_illegal hf hw] at h
      cases h
      exact .inr ⟨⟨e, rfl⟩, rfl⟩

/-! ## A step -/

/-- In HALTED and FAULTED a step changes nothing (R215, U16). -/
theorem step_inactive {s : State} (h : ¬ s.active = true) : step s = .next s := by
  cases hr : s.runState with
  | idle | running => simp [State.active, hr] at h
  | halted => exact step_halted hr
  | faulted => exact step_faulted hr

/-- What a requested step did to lead from `s` to `t`. -/
inductive StepRun (s t : State) : Prop
  | completed {s1 s2 s3 s4 s5 : State} (writeBack : actWriteBack s = .next s1)
      (accessMemory : actAccessMemory s1 = .next s2) (execute : actExecute s2 = .next s3)
      (executed : s3.runState ≠ .faulted) (decode : actDecode s3 = .next s4) (decoded : s4.runState ≠ .faulted)
      (fetch : actFetch s4 = .next s5) (done : t = actReturn (actIncrement s5))
  | executeFaults {s1 s2 : State} (writeBack : actWriteBack s = .next s1)
      (accessMemory : actAccessMemory s1 = .next s2) (execute : actExecute s2 = .next t)
      (faulted : t.runState = .faulted)
  | decodeFaults {s1 s2 s3 : State} (writeBack : actWriteBack s = .next s1)
      (accessMemory : actAccessMemory s1 = .next s2) (execute : actExecute s2 = .next s3)
      (executed : s3.runState ≠ .faulted) (decode : actDecode s3 = .next t) (faulted : t.runState = .faulted)

theorem actWriteBack_runState {s t : State} (h : actWriteBack s = .next t) : t.runState = s.runState := by
  obtain ⟨x, rfl⟩ := actWriteBack_frame h
  rfl

theorem actAccessMemory_runState {s t : State} (h : actAccessMemory s = .next t) : t.runState = s.runState := by
  rcases actAccessMemory_next h with ⟨-, rfl⟩ | ⟨r, acc, -, -, rfl⟩ <;> rfl

theorem actFetch_runState {s t : State} (h : actFetch s = .next t) : t.runState = s.runState := by
  obtain ⟨n, w, ch, -, heq⟩ := actFetch_next s
  rw [heq] at h
  cases h
  rfl

/-- Every step that is requested and answers is one of the three runs. -/
theorem stepRun_of_step {s t : State} (ha : s.active = true) (h : step s = .next t) : StepRun s t := by
  have hs := State.runState_ne_faulted ha
  rw [step_active ha] at h
  rcases perform_cases h with ⟨s1, h1, -, h⟩ | ⟨h1, hf⟩
  swap
  · exact absurd ((actWriteBack_runState h1).symm.trans hf) hs
  have hs1 : s1.runState ≠ .faulted := actWriteBack_runState h1 ▸ hs
  rcases perform_cases h with ⟨s2, h2, -, h⟩ | ⟨h2, hf⟩
  swap
  · exact absurd ((actAccessMemory_runState h2).symm.trans hf) hs1
  rcases perform_cases h with ⟨s3, h3, hs3, h⟩ | ⟨h3, hf⟩
  swap
  · exact .executeFaults h1 h2 h3 hf
  rcases perform_cases h with ⟨s4, h4, hs4, h⟩ | ⟨h4, hf⟩
  swap
  · exact .decodeFaults h1 h2 h3 hs3 h4 hf
  rcases perform_cases h with ⟨s5, h5, -, h⟩ | ⟨h5, hf⟩
  swap
  · exact absurd ((actFetch_runState h5).symm.trans hf) hs4
  cases h
  exact .completed h1 h2 h3 hs3 h4 hs4 h5 rfl

end Sys2Proof.Machine
end

section
/-!
PROOFS. Statements O48 and O47: every step keeps the machine's invariant, and reset meets it.

`State.Sound` is the part of the invariant that holds between any two actions of a step. Each action keeps it; a step
that completes ends in a run state that fits, and a step that faults ends in FAULTED, where soundness is enough.
-/

namespace Sys2Proof.Machine

/-! ## Records keep their form from stage to stage (R32, R33) -/

theorem InFlight.ok_iff {res : Bool} {r : InFlight} :
    r.ok res = true ↔
      decodeWord r.word = .ok r.op ∧ r.cond = condField r.word ∧
        ({ rd := r.rd.isSome, a := r.a.isSome, b := r.b.isSome, addr := r.addr.isSome } : FieldsSet) = fieldsSet r.op ∧
        r.res.isSome = res := by
  simp only [InFlight.ok, Bool.and_eq_true, decide_eq_true_eq, and_assoc]

/-- A record whose `res` an operation rewrites. -/
theorem InFlight.ok_withRes {res res' : Bool} {r : InFlight} {v : Option Word} (h : r.ok res = true)
    (hv : v.isSome = res') : ({ r with res := v } : InFlight).ok res' = true := by
  obtain ⟨hword, hcond, hfields, -⟩ := InFlight.ok_iff.1 h
  exact InFlight.ok_iff.2 ⟨hword, hcond, hfields, hv⟩

theorem InFlight.res_of_ok {res : Bool} {r : InFlight} (h : r.ok res = true) : r.res.isSome = res := by
  obtain ⟨-, -, -, hres⟩ := InFlight.ok_iff.1 h
  exact hres

/-- What decode makes of a legal word. -/
theorem decodedRecord_decoded {i : Instr} {w : Word} {c : Config} {x : Regs} (h : decodeWord w = .ok i) :
    (decodedRecord i w c x).decoded = true := by
  have hcond : (decodedRecord i w c x).cond = condField w := by cases i <;> rfl
  have hres : (decodedRecord i w c x).res.isSome = false := by cases i <;> rfl
  refine InFlight.ok_iff.2 ⟨?_, ?_, ?_, hres⟩
  · rw [decodedRecord_word, decodedRecord_op, h]
  · rw [decodedRecord_word, hcond]
  · rw [decodedRecord_op]
    cases i <;> rfl

/-- Execute makes an executed record of a decoded one (R204). -/
theorem executed_of_decoded {c : Config} {r r' : InFlight} (h : (opsOf r.op c).execute r = .next r')
    (hr : r.decoded = true) : r'.executed = true := by
  obtain ⟨v, rfl, hv⟩ := opsOf_execute_next h
  rw [InFlight.res_of_ok hr, Bool.false_or] at hv
  exact InFlight.ok_withRes hr hv

/-- Access-memory makes an accessed record of an executed one (R203). -/
theorem accessed_of_executed {c : Config} {r : InFlight} {ch : Chain} {acc : Access}
    (h : (opsOf r.op c).accessMemory r ch = .next acc) (hr : r.executed = true) : acc.record.accessed = true := by
  obtain ⟨⟨v, hacc, hv⟩, -⟩ := opsOf_accessMemory_next h
  rw [InFlight.res_of_ok hr] at hv
  rw [hacc]
  exact InFlight.ok_withRes hr hv

/-! ## Soundness between the actions of a step -/

/-- The chain is in its form, and every slot holds a record of its stage. -/
structure State.Sound (s : State) : Prop where
  chain : s.chain.ok s.config = true
  slotF : s.slotF ≠ some 0#32
  slotD : s.slotD.all InFlight.decoded = true
  slotX : s.slotX.all InFlight.executed = true
  slotM : s.slotM.all InFlight.accessed = true
  slotW : s.slotW.all InFlight.accessed = true

theorem State.inv_iff {s : State} : s.Inv = true ↔ s.Sound ∧ s.runStateOk = true ∧ s.stageOp = .decode := by
  simp only [State.Inv, State.slotsOk, Bool.and_eq_true, decide_eq_true_eq]
  constructor
  · rintro ⟨⟨⟨hc, ⟨⟨⟨hF, hD⟩, hX⟩, hM⟩, hW⟩, hr⟩, ho⟩
    exact ⟨⟨hc, hF, hD, hX, hM, hW⟩, hr, ho⟩
  · rintro ⟨⟨hc, hF, hD, hX, hM, hW⟩, hr, ho⟩
    exact ⟨⟨⟨hc, ⟨⟨⟨hF, hD⟩, hX⟩, hM⟩, hW⟩, hr⟩, ho⟩

/-- A sound machine that takes a recorded fault meets the invariant (R212, R215). -/
theorem State.Sound.abort_inv {s : State} {f : Fault} (h : s.Sound) (hf : f.record.isSome = true) :
    (s.abort f).Inv = true :=
  State.inv_iff.2 ⟨⟨h.chain, h.slotF, h.slotD, h.slotX, h.slotM, h.slotW⟩, hf, rfl⟩

/-- In IDLE and RUNNING there is no fault record (R37). -/
theorem State.faultRecord_of_active {s : State} (h : s.runStateOk = true) (ha : s.active = true) :
    s.faultRecord = none := by
  cases hr : s.runState with
  | idle | running => simp_all [State.runStateOk]
  | halted | faulted => simp [State.active, hr] at ha

/-- What completes a step: soundness, no fault record, and the stage operation back at `decode` (R208, R215). -/
theorem inv_actReturn {s : State} (h : s.Sound) (hf : s.faultRecord = none) (ho : s.stageOp = .decode) :
    (actReturn s).Inv = true := by
  refine State.inv_iff.2 ⟨⟨h.chain, h.slotF, h.slotD, h.slotX, h.slotM, h.slotW⟩, ?_, ho⟩
  cases hs : s.anySlot <;> simp [State.runStateOk, hs, hf]

/-! ## Each action keeps it -/

theorem actWriteBack_keeps {s t : State} (h : actWriteBack s = .next t) (hs : s.Sound) :
    t.Sound ∧ t.faultRecord = s.faultRecord := by
  obtain ⟨x, rfl⟩ := actWriteBack_frame h
  exact ⟨⟨hs.chain, hs.slotF, hs.slotD, hs.slotX, hs.slotM, hs.slotM⟩, rfl⟩

theorem actAccessMemory_keeps {s t : State} (h : actAccessMemory s = .next t) (hs : s.Sound) :
    t.Sound ∧ t.faultRecord = s.faultRecord := by
  rcases actAccessMemory_next h with ⟨-, rfl⟩ | ⟨r, acc, hr, hacc, rfl⟩
  · exact ⟨⟨hs.chain, hs.slotF, hs.slotD, hs.slotX, rfl, hs.slotW⟩, rfl⟩
  · have hrec : r.executed = true := by simpa only [hr, Option.all_some] using hs.slotX
    obtain ⟨-, hchain⟩ := opsOf_accessMemory_next hacc
    exact ⟨⟨hchain hs.chain, hs.slotF, hs.slotD, hs.slotX, accessed_of_executed hacc hrec, hs.slotW⟩, rfl⟩

/-- Execute, if it does not take its fault. -/
theorem actExecute_keeps {s t : State} (h : actExecute s = .next t) (ht : t.runState ≠ .faulted) (hs : s.Sound) :
    t.Sound ∧ t.faultRecord = s.faultRecord := by
  rcases actExecute_next h with ⟨-, rfl⟩ | ⟨r, hr, ⟨r', hr', rfl⟩ | ⟨-, rfl⟩⟩
  · exact ⟨⟨hs.chain, hs.slotF, hs.slotD, rfl, hs.slotM, hs.slotW⟩, rfl⟩
  · have hrec : r.decoded = true := by simpa only [hr, Option.all_some] using hs.slotD
    exact ⟨⟨hs.chain, hs.slotF, hs.slotD, executed_of_decoded hr' hrec, hs.slotM, hs.slotW⟩, rfl⟩
  · exact absurd rfl ht

/-- Decode, if it does not take its fault. -/
theorem actDecode_keeps {s t : State} (h : actDecode s = .next t) (ht : t.runState ≠ .faulted) (hs : s.Sound) :
    t.Sound ∧ t.faultRecord = s.faultRecord ∧ t.stageOp = .decode := by
  rcases actDecode_next h with ⟨-, rfl⟩ | ⟨w, -, ⟨i, hi, rfl⟩ | ⟨-, rfl⟩⟩
  · exact ⟨⟨hs.chain, hs.slotF, rfl, hs.slotX, hs.slotM, hs.slotW⟩, rfl, rfl⟩
  · exact ⟨⟨hs.chain, hs.slotF, decodedRecord_decoded hi, hs.slotX, hs.slotM, hs.slotW⟩, rfl, rfl⟩
  · exact absurd rfl ht

/-- A fetched word is not the halt sentinel (R206). -/
theorem fetchedSlot_ne_sentinel (w : Word) : (if w = 0#32 then none else some w) ≠ some 0#32 := by
  split
  · nofun
  · rename_i h
    exact fun hw => h (Option.some.inj hw)

theorem actFetch_keeps {s t : State} (h : actFetch s = .next t) (hs : s.Sound) :
    t.Sound ∧ t.faultRecord = s.faultRecord ∧ t.stageOp = s.stageOp := by
  obtain ⟨n, w, ch, hread, heq⟩ := actFetch_next s
  rw [heq] at h
  cases h
  exact ⟨⟨Chain.memRead_ok hread hs.chain, fetchedSlot_ne_sentinel w, hs.slotD, hs.slotX, hs.slotM, hs.slotW⟩, rfl, rfl⟩

/-! ## A step, and reset -/

/-- An execute action that faults leaves a machine that meets the invariant (R213). -/
theorem actExecute_faulted_inv {s t : State} (h : actExecute s = .next t) (ht : t.runState = .faulted) (hs : s.Sound)
    (hf : s.runState ≠ .faulted) : t.Inv = true := by
  rcases actExecute_next h with ⟨-, rfl⟩ | ⟨r, -, ⟨r', -, rfl⟩ | ⟨-, rfl⟩⟩
  · exact absurd ht hf
  · exact absurd ht hf
  · exact hs.abort_inv rfl

/-- So does a decode action that faults. -/
theorem actDecode_faulted_inv {s t : State} (h : actDecode s = .next t) (ht : t.runState = .faulted) (hs : s.Sound)
    (hf : s.runState ≠ .faulted) : t.Inv = true := by
  rcases actDecode_next h with ⟨-, rfl⟩ | ⟨w, -, ⟨i, -, rfl⟩ | ⟨-, rfl⟩⟩
  · exact absurd ht hf
  · exact absurd ht hf
  · exact hs.abort_inv rfl

theorem stepRun_keeps_inv {s t : State} (h : StepRun s t) (hs : s.Sound) (hrun : s.runState ≠ .faulted)
    (hf : s.faultRecord = none) : t.Inv = true := by
  cases h with
  | completed h1 h2 h3 hs3 h4 hs4 h5 done =>
    obtain ⟨sound1, f1⟩ := actWriteBack_keeps h1 hs
    obtain ⟨sound2, f2⟩ := actAccessMemory_keeps h2 sound1
    obtain ⟨sound3, f3⟩ := actExecute_keeps h3 hs3 sound2
    obtain ⟨sound4, f4, o4⟩ := actDecode_keeps h4 hs4 sound3
    obtain ⟨sound5, f5, o5⟩ := actFetch_keeps h5 sound4
    have sound : (actIncrement _).Sound :=
      ⟨sound5.chain, sound5.slotF, sound5.slotD, sound5.slotX, sound5.slotM, sound5.slotW⟩
    rw [done]
    exact inv_actReturn sound (by rw [actIncrement_faultRecord, f5, f4, f3, f2, f1, hf]) (o5.trans o4)
  | executeFaults h1 h2 h3 ht =>
    obtain ⟨sound1, -⟩ := actWriteBack_keeps h1 hs
    obtain ⟨sound2, -⟩ := actAccessMemory_keeps h2 sound1
    exact actExecute_faulted_inv h3 ht sound2 (actAccessMemory_runState h2 ▸ actWriteBack_runState h1 ▸ hrun)
  | decodeFaults h1 h2 h3 hs3 h4 ht =>
    obtain ⟨sound1, -⟩ := actWriteBack_keeps h1 hs
    obtain ⟨sound2, -⟩ := actAccessMemory_keeps h2 sound1
    obtain ⟨sound3, -⟩ := actExecute_keeps h3 hs3 sound2
    exact actDecode_faulted_inv h4 ht sound3 hs3

/-- Settles O48: a requested step is one of three runs, each of which keeps the invariant; any other step changes
nothing. -/
theorem everyStepKeepsTheInvariant : Obligations.EveryStepKeepsTheInvariant := by
  intro s t hinv h
  obtain ⟨hs, hrun, -⟩ := State.inv_iff.1 hinv
  by_cases ha : s.active = true
  · have hnone := State.faultRecord_of_active hrun ha
    exact stepRun_keeps_inv (stepRun_of_step ha h) hs (State.runState_ne_faulted ha) hnone
  · rw [step_inactive ha] at h
    cases h
    exact hinv

/-- Empty levels in front of an empty DRAM are in the chain's form. -/
theorem chainForm_empty {ps : List CacheParams} (h : ps.all CacheParams.wellFormed = true) :
    ChainForm ps (ps.map fun _ => []) { mem := [], present := [] } := by
  induction ps with
  | nil => exact ChainForm.nil_iff.2 ⟨by decide, rfl⟩
  | cons p ps ih =>
    rw [List.all_cons, Bool.and_eq_true] at h
    obtain ⟨hp, hps⟩ := h
    exact ChainForm.cons_iff.2 ⟨hp, List.cons_ne_nil _ _, Store.wf_iff.2 ⟨assocSorted_nil, nofun⟩, nofun, ih hps⟩

/-- Settles O47: an empty chain is in its form, and empty slots fit IDLE. -/
theorem resetMeetsTheInvariant : Obligations.ResetMeetsTheInvariant := by
  intro c hc
  simp only [Config.wellFormed, Bool.and_eq_true, decide_eq_true_eq] at hc
  obtain ⟨hn, hlevels⟩ := hc
  have hchain : (State.resetWith c).chain.ok c = true := Chain.ok_iff.2 ⟨hn, chainForm_empty hlevels⟩
  exact State.inv_iff.2 ⟨⟨hchain, nofun, rfl, rfl, rfl, rfl⟩, rfl, rfl⟩

end Sys2Proof.Machine
end

section
/-!
PROOFS. Statements O34, O8 and O5: where a completed step moves each instruction, and which writes change which
register.
-/

namespace Sys2Proof.Machine

/-! ## What each action moves (R201) -/

/-- What follows an instruction from slot to slot. -/
def InFlight.identity (r : InFlight) : Word × Instr := (r.word, r.op)

/-- Access-memory moves the instruction of `slot.X` to `slot.M`. -/
theorem actAccessMemory_moves {s t : State} (h : actAccessMemory s = .next t) :
    t.slotM.map InFlight.identity = s.slotX.map InFlight.identity ∧ t.slotF = s.slotF ∧ t.slotD = s.slotD ∧
      t.slotW = s.slotW ∧ t.regs = s.regs := by
  rcases actAccessMemory_next h with ⟨hx, rfl⟩ | ⟨r, acc, hx, hacc, rfl⟩
  · exact ⟨by rw [hx], rfl, rfl, rfl, rfl⟩
  · obtain ⟨⟨v, hrec, -⟩, -⟩ := opsOf_accessMemory_next hacc
    exact ⟨by rw [hx, hrec]; rfl, rfl, rfl, rfl, rfl⟩

/-- Execute moves the instruction of `slot.D` to `slot.X`. -/
theorem actExecute_moves {s t : State} (h : actExecute s = .next t) (ht : t.runState ≠ .faulted) :
    t.slotX.map InFlight.identity = s.slotD.map InFlight.identity ∧ t.slotF = s.slotF ∧ t.slotM = s.slotM ∧
      t.slotW = s.slotW ∧ t.regs = s.regs := by
  rcases actExecute_next h with ⟨hd, rfl⟩ | ⟨r, hd, ⟨r', hr', rfl⟩ | ⟨-, rfl⟩⟩
  · exact ⟨by rw [hd], rfl, rfl, rfl, rfl⟩
  · obtain ⟨v, rfl, -⟩ := opsOf_execute_next hr'
    exact ⟨by rw [hd]; rfl, rfl, rfl, rfl, rfl⟩
  · exact absurd rfl ht

/-- Decode fills `slot.D` with the record of the word in `slot.F`. -/
theorem actDecode_moves {s t : State} (h : actDecode s = .next t) (ht : t.runState ≠ .faulted) :
    t.slotD.map InFlight.word = s.slotF ∧ t.slotX = s.slotX ∧ t.slotM = s.slotM ∧ t.slotW = s.slotW ∧
      t.regs = s.regs := by
  rcases actDecode_next h with ⟨hf, rfl⟩ | ⟨w, hf, ⟨i, -, rfl⟩ | ⟨-, rfl⟩⟩
  · exact ⟨by rw [hf]; rfl, rfl, rfl, rfl, rfl⟩
  · exact ⟨by rw [hf]; exact congrArg some (decodedRecord_word i w s.config s.regs), rfl, rfl, rfl, rfl⟩
  · exact absurd rfl ht

/-- Fetch fills `slot.F` from `Mem` at the program counter (R206); `Mem` after the read is `Mem` before it (R69). -/
theorem actFetch_reads {s t : State} (h : actFetch s = .next t) (hok : s.chain.ok s.config = true) :
    t.slotF = (if t.mem (s.reg Reg.pc) = 0#32 then none else some (t.mem (s.reg Reg.pc))) ∧ t.slotD = s.slotD ∧
      t.slotX = s.slotX ∧ t.slotM = s.slotM ∧ t.slotW = s.slotW := by
  obtain ⟨n, ch, hread, -, hview⟩ := Chain.memRead_view (s.reg Reg.pc) hok
  rw [actFetch_wait hread] at h
  cases h
  refine ⟨?_, rfl, rfl, rfl, rfl⟩
  have hmem : ch.view s.config (s.reg Reg.pc) = s.chain.view s.config (s.reg Reg.pc) := hview _
  simp only [State.mem, hmem]

/-- Settles O34: each action moves its own slot on, and the later ones leave it. -/
theorem instructionsMoveForwardOneStage : Obligations.InstructionsMoveForwardOneStage := by
  intro s t s1 hinv ha h ht hwb
  obtain ⟨hs, -, -⟩ := State.inv_iff.1 hinv
  cases stepRun_of_step ha h with
  | executeFaults _ _ _ hf => exact absurd hf ht
  | decodeFaults _ _ _ _ _ hf => exact absurd hf ht
  | @completed _ _ _ s4 _ h1 h2 h3 hs3 h4 hs4 h5 done =>
    cases hwb.symm.trans h1
    obtain ⟨sound1, -⟩ := actWriteBack_keeps h1 hs
    obtain ⟨sound2, -⟩ := actAccessMemory_keeps h2 sound1
    obtain ⟨sound3, -⟩ := actExecute_keeps h3 hs3 sound2
    obtain ⟨sound4, -, -⟩ := actDecode_keeps h4 hs4 sound3
    obtain ⟨x, rfl⟩ := actWriteBack_frame h1
    obtain ⟨move2, hF2, hD2, hW2, regs2⟩ := actAccessMemory_moves h2
    obtain ⟨move3, hF3, hM3, hW3, regs3⟩ := actExecute_moves h3 hs3
    obtain ⟨move4, hX4, hM4, hW4, regs4⟩ := actDecode_moves h4 hs4
    obtain ⟨move5, hD5, hX5, hM5, hW5⟩ := actFetch_reads h5 sound4.chain
    subst done
    refine ⟨?_, ?_, ?_, ?_, ?_, ?_⟩
    · exact hW5.trans (hW4.trans (hW3.trans hW2))
    · exact (congrArg (Option.map InFlight.identity) (hM5.trans (hM4.trans hM3))).trans move2
    · exact (congrArg (Option.map InFlight.identity) (hX5.trans hX4)).trans
        (move3.trans (congrArg (Option.map InFlight.identity) hD2))
    · exact (congrArg (Option.map InFlight.word) hD5).trans (move4.trans (hF3.trans hF2))
    · intro r hr
      have hdec := sound4.slotD
      rw [hD5.symm.trans hr, Option.all_some] at hdec
      exact (InFlight.ok_iff.1 hdec).1
    · have hpc : s4.reg Reg.pc = readReg x Reg.pc := congrArg (readReg · Reg.pc) (regs4.trans (regs3.trans regs2))
      rw [hpc] at move5
      exact move5

/-! ## Register writes -/

/-- Settles O5, by the read-after-write law of the register file and the reset value of every register. -/
theorem noRegisterIsHardwired : Obligations.NoRegisterIsHardwired :=
  ⟨State.setReg_reg, fun c => State.resetWith_reg c 0#5⟩

/-- The status register is not written by a write-back whose record does not name it, but for the compares (R26). -/
theorem opsOf_writeBack_status {i : Instr} {c : Config} {r : InFlight} {x y : Regs} (hrd : r.rd ≠ some Reg.status)
    (hu : ∀ a b, i ≠ .cmpu a b) (hs : ∀ a b, i ≠ .cmps a b) (h : (opsOf i c).writeBack r x = .next y) :
    readReg y Reg.status = readReg x Reg.status := by
  have dest {d : Reg} (hd : r.rd = some d) : Reg.status ≠ d := fun he => hrd (he ▸ hd)
  cases i with
  | cmpu a b => exact absurd rfl (hu a b)
  | cmps a b => exact absurd rfl (hs a b)
  | nop | str | stri =>
    cases h
    rfl
  | not | mov =>
    obtain ⟨d, a, hd, -, rfl⟩ := writeOfA_next h
    exact readReg_writeReg_other _ _ (dest hd)
  | jmp | jmpi =>
    rcases writeJump_next h with rfl | ⟨t, -, rfl⟩
    · rfl
    · exact readReg_writeReg_other _ _ (by decide)
  | jmps | jmpsi =>
    rcases writeJump_next h with rfl | ⟨t, -, rfl⟩
    · rfl
    · exact readReg_linkAndJump x t Reg.status
  | sih =>
    obtain ⟨a, -, rfl⟩ := writeHandler_next h
    exact readReg_writeReg_other _ _ (by decide)
  | int =>
    cases h
    exact readReg_enterInterrupt x Reg.status
  | rfi =>
    cases h
    exact readReg_returnFromInterrupt x Reg.status
  | _ =>
    obtain ⟨d, v, hd, -, rfl⟩ := writeResult_next h
    exact readReg_writeReg_other _ _ (dest hd)

/-- Settles O8: the write-back of the record in `slot.M` is the whole change of registers. -/
theorem statusIsWrittenByComparesAndDestinationsOnly : Obligations.StatusIsWrittenByComparesAndDestinationsOnly := by
  intro i s t r hop hr hrd hu hs h
  obtain ⟨r', x, hr', hwrite, rfl⟩ := exec_writeBack_next hop h
  cases hr.symm.trans hr'
  exact opsOf_writeBack_status hrd hu hs hwrite

end Sys2Proof.Machine
end

section
/-!
PROOFS. Statements O30, O29, O26, O28, O27 and O53: DRAM's map, the answers and the cycles of one cache level, and the
chain and the host's port to it as one flat memory (20_memory.md sections 3 to 5 and 8).
-/

namespace Sys2Proof.Machine

/-! ## The chain keeps its form, and is one flat memory -/

/-- Settles O30: a read or a write drains the level it fills, so that no clean line becomes stale. -/
theorem cleanLinesStayCoherent : Obligations.CleanLinesStayCoherent := by
  refine ⟨fun c hc => (State.inv_iff.1 (resetMeetsTheInvariant c hc)).1.chain, fun c ch a v hok => ⟨?_, ?_⟩⟩
  · obtain ⟨n, ch', hread, hok', -⟩ := Chain.memRead_view a hok
    rw [hread]
    exact hok'
  · obtain ⟨n, ch', hwrite, hok', -⟩ := Chain.memWrite_view a v hok
    rw [hwrite]
    exact hok'

/-- What the eviction step answers. -/
theorem chainEvict_answers (n : Nat) (ps : List CacheParams) (sts : List Store) (d : Dram) (q : Option (Word × Word)) :
    ∃ e sts' d', chainEvict n ps sts d q = (.wait e (), sts', d') := by
  obtain ⟨e, he⟩ := chainEvict_waits n ps sts d q
  exact ⟨e, _, _, Prod.ext he rfl⟩

/-- Hit or miss, a write leaves its dirty line at the head of the chain (R59, R60). -/
theorem chainSet_head {n : Nat} {p : CacheParams} {ps : List CacheParams} {sts sts' : List Store} {d d' : Dram}
    {a v : Word} {c : Nat} (h : chainSet n (p :: ps) sts d a v = (.wait c (), sts', d')) :
    sts'.headD [] = Store.fill p (sts.headD []) a v true := by
  cases hh : Store.hit p (sts.headD []) a with
  | some l =>
    cases h.symm.trans (chainSet_hit hh)
    rfl
  | none =>
    obtain ⟨e, _, _, he⟩ := chainEvict_answers n ps sts.tail d (Store.victim p (sts.headD []) a)
    cases h.symm.trans (chainSet_miss hh he)
    rfl

/-- A dirty line with another tag is what the eviction step forwards (R61). -/
theorem Store.victim_of_dirty {p : CacheParams} {st : Store} {a : Word} {l : Line} (hm : Store.hit p st a = none)
    (hf : assocFind st (p.index a) = some l) (hd : l.dirty = true) :
    Store.victim p st a = some (p.address l.tag (p.index a), l.data) := by
  have ht : l.tag ≠ p.tag a := fun ht => by
    rw [Store.hit_eq_some.2 ⟨hf, ht⟩] at hm
    cases hm
  exact Store.victim_eq_some.2 ⟨l, hf, ht, hd, rfl, rfl⟩

/-- Where no dirty line is, there is nothing to forward (R61). -/
theorem Store.victim_of_clean {p : CacheParams} {st : Store} {a : Word}
    (h : ∀ l, assocFind st (p.index a) = some l → l.dirty = false) : Store.victim p st a = none := by
  cases hv : Store.victim p st a with
  | none => rfl
  | some q =>
    obtain ⟨l, hf, -, hd, -, -⟩ := Store.victim_eq_some.1 hv
    cases hd.symm.trans (h l hf)

/-- An address of one index with the line just written, but another tag, misses and evicts that line (R61). -/
theorem Store.evicts_written_line {p : CacheParams} {st : Store} {a1 a2 v : Word} (hi : p.index a1 = p.index a2)
    (ht : p.tag a1 ≠ p.tag a2) :
    Store.hit p (Store.fill p st a1 v true) a2 = none ∧
      Store.victim p (Store.fill p st a1 v true) a2 = some (a1, v) := by
  have hne : a2 ≠ a1 := fun h => ht (h ▸ rfl)
  have hmiss : Store.hit p (Store.fill p st a1 v true) a2 = none := by
    rw [Store.hit_fill, if_neg hne, if_pos hi.symm]
  have hline := (Store.find_fill p st a1 v true (p.index a2)).trans (if_pos hi.symm)
  refine ⟨hmiss, ?_⟩
  rw [Store.victim_of_dirty hmiss hline rfl, ← hi, CacheParams.address_tag_index]

/-- Settles O29: reads and writes of a chain in its form, and a second write that evicts what the first one wrote. -/
theorem chainBehavesAsOneFlatMemory : Obligations.ChainBehavesAsOneFlatMemory := by
  constructor
  · intro n ps sts d a v hl hd hs hc
    obtain ⟨c, sts1, d1, hget, -, hview⟩ := chainGet_reads (n := n) a ⟨hl, hd, hs, hc⟩
    obtain ⟨c', sts2, d2, hset, -, hview'⟩ := chainSet_writesAt (n := n) a v ⟨hl, hd, hs, hc⟩
    exact ⟨⟨c, sts1, d1, hget, hview⟩, c', sts2, d2, hset, hview'⟩
  · intro n p ps sts d a1 a2 v1 v2 hl hd hs hc hi ht
    obtain ⟨c1, sts1, d1, hset1, hform1, -⟩ := chainSet_writesAt (n := n) a1 v1 ⟨hl, hd, hs, hc⟩
    obtain ⟨hmiss, hvictim⟩ := Store.evicts_written_line (st := sts.headD []) (v := v1) hi ht
    rw [← chainSet_head hset1] at hmiss hvictim
    obtain ⟨-, -, -, -, hlow⟩ := ChainForm.cons_iff.1 hform1
    obtain ⟨e, sts2, d2, hevict, -, hview⟩ := chainSet_writesAt (n := n) a1 v1 hlow
    exact ⟨c1, sts1, d1, _, _, _, hset1, chainSet_miss_dirty hmiss hvictim hevict, (hview a1).trans (if_pos rfl)⟩

/-! ## DRAM's map (R52, R53, R77) -/

theorem Dram.mem_inspect {d : Dram} {k : Nat} {x : Word} :
    (k, x) ∈ d.inspect ↔ k ∈ d.present ∧ x = Memory.readWord d.mem k := by
  simp only [Dram.inspect, List.mem_map, Prod.mk.injEq]
  constructor
  · rintro ⟨a, ha, rfl, rfl⟩
    exact ⟨ha, rfl⟩
  · rintro ⟨hk, rfl⟩
    exact ⟨k, hk, rfl, rfl⟩

theorem insertKey_of_mem {l : List Nat} {k : Nat} (hs : l.Pairwise (· < ·)) (hk : k ∈ l) : insertKey l k = l :=
  List.Pairwise.eq_of_mem_iff (insertKey_sorted k hs) hs fun e => by
    rw [mem_insertKey]
    exact or_iff_right_of_imp (· ▸ hk)

/-- A byte that no address in the map covers reads 0 (R38). -/
theorem Dram.readByte_absent {d : Dram} (hw : d.wf = true) {k : Nat} (hk : k / 4 ∉ d.present) :
    Memory.readByte d.mem k = 0#8 := by
  obtain ⟨-, -, -, hcover⟩ := (Dram.wf_iff d).1 hw
  cases hf : assocFind d.mem k with
  | none => rw [Memory.readByte, hf, Option.getD_none]
  | some b => exact absurd (hcover _ (mem_of_assocFind hf)) hk

/-- So does a word whose address is not in the map. -/
theorem Dram.readWord_absent {d : Dram} (hw : d.wf = true) {k : Nat} (hk : k ∉ d.present) :
    Memory.readWord d.mem k = 0#32 := by
  have hbyte (j : Nat) (hj : j < 4) : Memory.readByte d.mem (4 * k + j) = 0#8 :=
    Dram.readByte_absent hw (by rwa [Nat.mul_add_div (by decide), Nat.div_eq_of_lt hj])
  have hbyte0 : Memory.readByte d.mem (4 * k) = 0#8 := hbyte 0 (by decide)
  rw [Memory.readWord, hbyte0, hbyte 1 (by decide), hbyte 2 (by decide), hbyte 3 (by decide)]
  decide

/-- Settles O26: membership of the map, and the words that its addresses read as, after each operation. -/
theorem dramKeepsItsMap : Obligations.DramKeepsItsMap := by
  intro delay d a v hw
  obtain ⟨hmem, hsorted, -, -⟩ := (Dram.wf_iff d).1 hw
  refine ⟨fun x hx => ?_, fun habsent => ⟨?_, fun _ => rfl, fun k x => ?_⟩, rfl, fun k x => ?_⟩
  · obtain ⟨hpresent, rfl⟩ := Dram.mem_inspect.1 hx
    simp only [Dram.get, insertKey_of_mem hsorted hpresent]
  · rw [Dram.get_result, Dram.readWord_absent hw fun h => habsent _ (Dram.mem_inspect.2 ⟨h, rfl⟩)]
  · have hzero := Dram.readWord_absent hw fun h => habsent _ (Dram.mem_inspect.2 ⟨h, rfl⟩)
    rw [Dram.mem_inspect, Dram.mem_inspect, Dram.get_mem, Dram.get_present, mem_insertKey]
    constructor
    · rintro ⟨rfl | hk, hx⟩
      · exact .inr ⟨rfl, hx.trans hzero⟩
      · exact .inl ⟨hk, hx⟩
    · rintro (⟨hk, hx⟩ | ⟨rfl, rfl⟩)
      · exact ⟨.inr hk, hx⟩
      · exact ⟨.inl rfl, hzero.symm⟩
  · rw [Dram.mem_inspect, Dram.mem_inspect, Dram.set_mem, Dram.set_present, mem_insertKey,
      Memory.readWord_writeWord _ _ _ hmem]
    by_cases hk : k = a.toNat <;> simp [hk]

/-! ## Cycles of one level (R57 to R63) -/

/-- What a read of the chain answers. -/
theorem chainGet_answers (n : Nat) (ps : List CacheParams) (sts : List Store) (d : Dram) (a : Word) :
    ∃ g x sts' d', chainGet n ps sts d a = (.wait g x, sts', d') := by
  obtain ⟨g, x, hg⟩ := chainGet_waits n ps sts d a
  exact ⟨g, x, _, _, Prod.ext hg rfl⟩

/-- Settles O28: a miss is the eviction step, of 0 cycles without a victim, and for a read the fill from below. -/
theorem missLatencyAddsUp : Obligations.MissLatencyAddsUp := by
  intro n p ps st sts d a v
  refine ⟨fun l hh => ⟨⟨l.data, ?_⟩, ?_⟩, fun hm => ?_, ⟨⟨_, rfl⟩, rfl⟩, fun k1 k2 => ⟨?_, ?_⟩⟩
  · rw [chainGet_hit (sts := st :: sts) hh]
  · rw [chainSet_hit (sts := st :: sts) hh]
  · obtain ⟨e, sts', d', he⟩ := chainEvict_answers n ps sts d (Store.victim p st a)
    obtain ⟨g, x, sts'', d'', hg⟩ := chainGet_answers n ps sts' d' a
    refine ⟨e, sts', d', g, x, fun hclean => ?_, fun l hf hd => ?_, ?_, ?_, ?_⟩
    · rw [Store.victim_of_clean hclean] at he
      cases he
      exact ⟨rfl, rfl, rfl⟩
    · rw [Store.victim_of_dirty hm hf hd] at he
      exact he
    · rw [hg]
    · rw [chainSet_miss (sts := st :: sts) hm he]
    · rw [chainGet_miss (sts := st :: sts) hm he hg, Nat.add_assoc]
  · have hbelow := chainGet_miss (p := ⟨k2, 10⟩) (sts := [[]]) rfl rfl (chainGet_dram 100 [] d a)
    exact ⟨_, congrArg Prod.fst (chainGet_miss (p := ⟨k1, 1⟩) (sts := [[], []]) rfl rfl hbelow)⟩
  · exact congrArg Prod.fst (chainSet_miss_clean (sts := [[], []]) rfl rfl)

/-- Settles O27: a hit reads the line, or writes it and nothing else. -/
theorem cacheHitTouchesNoLowerLevel : Obligations.CacheHitTouchesNoLowerLevel := by
  intro n p ps st sts d a v l hf ht
  have hhit : Store.hit p st a = some l := Store.hit_eq_some.2 ⟨hf, ht⟩
  refine ⟨chainGet_hit (sts := st :: sts) hhit, _, chainSet_hit (sts := st :: sts) hhit, fun j => ?_⟩
  refine (Store.find_fill p st a v true j).trans ?_
  rw [ht]
  rfl

/-! ## The host's port (R77) -/

/-- Settles O53: the host's get and set are a read and a write of the chain, and change nothing else. -/
theorem hostGetAndSetUseTheChainBetweenSteps : Obligations.HostGetAndSetUseTheChainBetweenSteps := by
  intro s a v hok
  obtain ⟨n, ch, hread, hok1, hview1⟩ := Chain.memRead_view a hok
  obtain ⟨m, ch', hwrite, hok2, hview2⟩ := Chain.memWrite_view a v hok
  refine ⟨⟨n, { s with chain := ch }, ?_, hview1, hok1, rfl⟩, m, { s with chain := ch' }, ?_, hview2, hok2, rfl⟩
  · rw [hostGet, hread]
    rfl
  · rw [hostSet, hwrite]

end Sys2Proof.Machine
end

section
/-!
PROOFS. Statements O32 and O45: the access-memory action is the only one that changes Mem, it writes at most the one
word of a store or of INT, and the fetch of its step reads Mem after it (20_memory.md sections 7 and 9).
-/

namespace Sys2Proof.Machine

/-! ## What access-memory writes (R122, R123, R191) -/

/-- The address that the access-memory operation of the record writes, if it writes. -/
def InFlight.writeAddress (c : Config) (r : InFlight) : Option Word :=
  match r.op with
  | .str _ _ => r.addr
  | .stri _ _ => r.addr
  | .int _ => some c.intCodeAddr
  | _ => none

/-- What a completed write of `v` at `t` leaves at each address, as the record tells it. -/
theorem Chain.memWrite_view_record {c : Config} {r : InFlight} {ch ch' : Chain} {t v : Word} {n : Nat}
    (hok : ch.ok c = true) (hw : ch.memWrite c t v = (.wait n (), ch')) (ht : r.writeAddress c = some t)
    (hv : r.a = some v) (a : Word) :
    ch'.view c a = if r.writeAddress c = some a then r.a.getD 0#32 else ch.view c a := by
  obtain ⟨_, _, hwrite, -, hview⟩ := Chain.memWrite_view t v hok
  cases hw.symm.trans hwrite
  rw [hview, ht, hv, Option.getD_some]
  simp only [Option.some.injEq, eq_comm]

theorem opsOf_accessMemory_view {c : Config} {r : InFlight} {ch : Chain} {acc : Access} (hok : ch.ok c = true)
    (h : (opsOf r.op c).accessMemory r ch = .next acc) (a : Word) :
    acc.chain.view c a = if r.writeAddress c = some a then r.a.getD 0#32 else ch.view c a := by
  cases hop : r.op with
  | ldr | ldri =>
    rw [hop] at h
    obtain ⟨t, n, v, ch', -, hread, rfl⟩ := accessLoad_next h
    obtain ⟨_, _, hread', -, hview⟩ := Chain.memRead_view t hok
    cases hread.symm.trans hread'
    rw [InFlight.writeAddress, hop]
    exact hview a
  | str | stri =>
    rw [hop] at h
    obtain ⟨t, v, n, ch', ht, hv, hwrite, rfl⟩ := accessStore_next h
    exact Chain.memWrite_view_record hok hwrite (by rw [InFlight.writeAddress, hop]; exact ht) hv a
  | int =>
    rw [hop] at h
    obtain ⟨v, n, ch', hv, hwrite, rfl⟩ := accessRecordCode_next h
    exact Chain.memWrite_view_record hok hwrite (by rw [InFlight.writeAddress, hop]) hv a
  | _ =>
    rw [hop] at h
    cases h
    rw [InFlight.writeAddress, hop]
    rfl

/-! ## Mem through a step -/

/-- Mem after the access-memory action of a step from `s`, and so after the step. -/
def State.memAfterStep (s : State) (a : Word) : Word :=
  match s.slotX with
  | none => s.mem a
  | some r => if r.writeAddress s.config = some a then r.a.getD 0#32 else s.mem a

theorem State.memAfterStep_empty {s : State} (h : s.slotX = none) (a : Word) : s.memAfterStep a = s.mem a := by
  rw [State.memAfterStep, h]

theorem State.memAfterStep_filled {s : State} {r : InFlight} (h : s.slotX = some r) (a : Word) :
    s.memAfterStep a = if r.writeAddress s.config = some a then r.a.getD 0#32 else s.mem a := by
  rw [State.memAfterStep, h]

theorem actWriteBack_memAfterStep {s t : State} (h : actWriteBack s = .next t) (a : Word) :
    t.memAfterStep a = s.memAfterStep a := by
  obtain ⟨x, rfl⟩ := actWriteBack_frame h
  rfl

theorem actAccessMemory_mem {s t : State} (h : actAccessMemory s = .next t) (hs : s.Sound) (a : Word) :
    t.mem a = s.memAfterStep a := by
  rcases actAccessMemory_next h with ⟨hx, rfl⟩ | ⟨r, acc, hx, hacc, rfl⟩
  · rw [State.memAfterStep_empty hx]
    rfl
  · rw [State.memAfterStep_filled hx]
    exact opsOf_accessMemory_view hs.chain hacc a

theorem actExecute_mem {s t : State} (h : actExecute s = .next t) (a : Word) : t.mem a = s.mem a := by
  rcases actExecute_next h with ⟨-, rfl⟩ | ⟨r, -, ⟨r', -, rfl⟩ | ⟨-, rfl⟩⟩ <;> rfl

theorem actDecode_mem {s t : State} (h : actDecode s = .next t) (a : Word) : t.mem a = s.mem a := by
  rcases actDecode_next h with ⟨-, rfl⟩ | ⟨w, -, ⟨i, -, rfl⟩ | ⟨-, rfl⟩⟩ <;> rfl

theorem actFetch_mem {s t : State} (h : actFetch s = .next t) (hs : s.Sound) (a : Word) : t.mem a = s.mem a := by
  obtain ⟨n, ch, hread, -, hview⟩ := Chain.memRead_view (s.reg Reg.pc) hs.chain
  rw [actFetch_wait hread] at h
  cases h
  exact hview a

/-- Whether a step completes or is aborted, it leaves Mem as its access-memory action did. -/
theorem stepRun_mem {s t : State} (h : StepRun s t) (hs : s.Sound) (a : Word) : t.mem a = s.memAfterStep a := by
  have after_access {s1 s2 : State} (h1 : actWriteBack s = .next s1) (h2 : actAccessMemory s1 = .next s2) :
      s2.Sound ∧ s2.mem a = s.memAfterStep a := by
    obtain ⟨sound1, -⟩ := actWriteBack_keeps h1 hs
    obtain ⟨sound2, -⟩ := actAccessMemory_keeps h2 sound1
    exact ⟨sound2, (actAccessMemory_mem h2 sound1 a).trans (actWriteBack_memAfterStep h1 a)⟩
  cases h with
  | @completed s1 s2 s3 s4 s5 h1 h2 h3 hs3 h4 hs4 h5 done =>
    obtain ⟨sound2, mem2⟩ := after_access h1 h2
    obtain ⟨sound3, -⟩ := actExecute_keeps h3 hs3 sound2
    obtain ⟨sound4, -, -⟩ := actDecode_keeps h4 hs4 sound3
    calc t.mem a = s5.mem a := by rw [done, actReturn_mem, actIncrement_mem]
      _ = s4.mem a := actFetch_mem h5 sound4 a
      _ = s3.mem a := actDecode_mem h4 a
      _ = s2.mem a := actExecute_mem h3 a
      _ = s.memAfterStep a := mem2
  | executeFaults h1 h2 h3 _ => exact (actExecute_mem h3 a).trans (after_access h1 h2).2
  | decodeFaults h1 h2 h3 _ h4 _ =>
    exact (actDecode_mem h4 a).trans ((actExecute_mem h3 a).trans (after_access h1 h2).2)

/-- Mem after a requested step of a machine that keeps its invariant. -/
theorem step_mem {s t : State} (hinv : s.Inv = true) (ha : s.active = true) (h : step s = .next t) (a : Word) :
    t.mem a = s.memAfterStep a :=
  stepRun_mem (stepRun_of_step ha h) (State.inv_iff.1 hinv).1 a

/-- Settles O32: Mem after the step, instruction by instruction. -/
theorem memoryChangesOnlyByStoresAndInterrupts : Obligations.MemoryChangesOnlyByStoresAndInterrupts := by
  intro s t hinv ha h a
  rw [step_mem hinv ha h]
  cases hx : s.slotX with
  | none => exact State.memAfterStep_empty hx a
  | some r =>
    rw [State.memAfterStep_filled hx, InFlight.writeAddress]
    cases hop : r.op with
    | int => simp only [hop, Option.some.injEq]
    | str | stri => simp only [hop]
    | _ => simp only [hop, reduceCtorEq, if_false]

/-- A store writes at the address of its record (R122, R123). -/
theorem InFlight.writeAddress_of_store {c : Config} {r : InFlight} (h : fieldsSet r.op = .store) :
    r.writeAddress c = r.addr := by
  cases hop : r.op with
  | str | stri => rw [InFlight.writeAddress, hop]
  | _ =>
    rw [hop] at h
    cases h

theorem InFlight.writeAddress_of_int {c : Config} {r : InFlight} {code : BitVec 22} (h : r.op = .int code) :
    r.writeAddress c = some c.intCodeAddr := by
  rw [InFlight.writeAddress, h]

/-- Settles O45: the fetch reads Mem as the step leaves it, and the step leaves the stored word there. -/
theorem storeIsSeenByTheFetchOfItsStep : Obligations.StoreIsSeenByTheFetchOfItsStep := by
  intro s t s1 r v hinv ha hwb hx hv htarget h ht
  have haddr : r.writeAddress s.config = some (s1.reg Reg.pc) := by
    rcases htarget with ⟨hstore, haddr⟩ | ⟨⟨code, hint⟩, haddr⟩
    · rw [InFlight.writeAddress_of_store hstore, haddr]
    · rw [InFlight.writeAddress_of_int hint, haddr]
  have hmem : t.mem (s1.reg Reg.pc) = v := by
    rw [step_mem hinv ha h, State.memAfterStep_filled hx, if_pos haddr, hv, Option.getD_some]
  obtain ⟨-, -, -, -, -, hfetch⟩ := instructionsMoveForwardOneStage s t s1 hinv ha h ht hwb
  rw [hfetch, hmem]

end Sys2Proof.Machine
end

section
/-!
PROOFS. Statements O31, O54 and O55: what an image load and a failed one leave in DRAM, and that the host's actions and
the clock edge keep the machine's invariant (20_memory.md section 8, 49_pipeline_control.md section 5).
-/

namespace Sys2Proof.Machine

/-! ## Memory without a valid line -/

/-- With every line invalid, a chain views its DRAM. -/
theorem chainView_invalid {ps : List CacheParams} {sts : List Store} (h : ∀ st ∈ sts, st = []) (m : Memory) (a : Word) :
    chainView ps sts m a = Memory.readWord m a.toNat := by
  induction ps generalizing sts with
  | nil => rfl
  | cons p ps ih =>
    have hhead : sts.headD [] = [] := by
      cases sts with
      | nil => rfl
      | cons st sts => exact h st List.mem_cons_self
    rw [chainView_cons, hhead, levelView_miss rfl]
    exact ih fun st hst => h st (List.mem_of_mem_tail hst)

/-- With every line invalid, the chain is in its form over any DRAM that is in its own. -/
theorem ChainForm.of_invalid {ps : List CacheParams} {sts : List Store} {d d' : Dram} (h : ChainForm ps sts d)
    (hinv : ∀ st ∈ sts, st = []) (hd : d'.wf = true) : ChainForm ps sts d' := by
  induction ps generalizing sts with
  | nil => exact ChainForm.nil_iff.2 ⟨hd, (ChainForm.nil_iff.1 h).2⟩
  | cons p ps ih =>
    obtain ⟨hp, hne, hst, -, hlow⟩ := ChainForm.cons_iff.1 h
    have hclean : Store.clean p (sts.headD []) (chainView ps sts.tail d'.mem) := by
      cases sts with
      | nil => exact absurd rfl hne
      | cons st sts =>
        rw [List.headD_cons, hinv st List.mem_cons_self]
        nofun
    exact ChainForm.cons_iff.2 ⟨hp, hne, hst, hclean, ih hlow fun st hst => hinv st (List.mem_of_mem_tail hst)⟩

theorem State.allLinesInvalid_iff {s : State} : s.allLinesInvalid = true ↔ ∀ st ∈ s.chain.stores, st = [] := by
  simp only [State.allLinesInvalid, List.all_eq_true, List.isEmpty_iff]

theorem State.mem_of_invalid {s : State} (h : s.allLinesInvalid = true) (a : Word) :
    s.mem a = Memory.readWord s.chain.dram.mem a.toNat :=
  chainView_invalid (State.allLinesInvalid_iff.1 h) _ a

theorem State.resetWith_allLinesInvalid (c : Config) : (State.resetWith c).allLinesInvalid = true :=
  State.allLinesInvalid_iff.2 fun st hst => by
    obtain ⟨p, -, rfl⟩ := List.mem_map.1 hst
    rfl

/-! ## One word written past the chain -/

theorem State.pokeDram_wf {s : State} (a v : Word) (h : s.chain.dram.wf = true) :
    (s.pokeDram a v).chain.dram.wf = true :=
  Dram.set_wf 0 a v h

theorem State.pokeDram_readWord {s : State} (a v : Word) (h : s.chain.dram.wf = true) (b : Nat) :
    Memory.readWord (s.pokeDram a v).chain.dram.mem b =
      if b = a.toNat then v else Memory.readWord s.chain.dram.mem b :=
  Memory.readWord_writeWord _ _ _ ((Dram.wf_iff _).1 h).1

/-! ## The invariant of a state with other memory -/

theorem State.chain_ok_of_inv {s : State} (h : s.Inv = true) : s.chain.ok s.config = true := (State.inv_iff.1 h).1.chain

theorem State.dram_wf_of_inv {s : State} (h : s.Inv = true) : s.chain.dram.wf = true :=
  (Chain.ok_iff.1 (State.chain_ok_of_inv h)).2.dram

theorem Chain.config_of_ok {c : Config} {ch : Chain} (h : ch.ok c = true) : c.wellFormed = true := by
  simp only [Chain.ok, Bool.and_eq_true] at h
  obtain ⟨⟨⟨hc, -⟩, -⟩, -⟩ := h
  exact hc

/-- The invariant asks of memory its form only, and nothing of the mark `loadFailed`. -/
theorem State.inv_withChain {s : State} {ch : Chain} (h : s.Inv = true) (hok : ch.ok s.config = true) (failed : Bool) :
    ({ s with chain := ch, loadFailed := failed } : State).Inv = true := by
  obtain ⟨hs, hrun, hop⟩ := State.inv_iff.1 h
  exact State.inv_iff.2 ⟨⟨hok, hs.slotF, hs.slotD, hs.slotX, hs.slotM, hs.slotW⟩, hrun, hop⟩

/-- DRAM may be rewritten while every cache line is invalid (R68, R76). -/
theorem State.inv_withDram {s : State} {d : Dram} (h : s.Inv = true) (hv : s.allLinesInvalid = true)
    (hd : d.wf = true) (failed : Bool) :
    ({ s with chain := { s.chain with dram := d }, loadFailed := failed } : State).Inv = true := by
  obtain ⟨hn, hform⟩ := Chain.ok_iff.1 (State.chain_ok_of_inv h)
  have hform' := hform.of_invalid (State.allLinesInvalid_iff.1 hv) hd
  exact State.inv_withChain h (Chain.ok_iff.2 ⟨hn, hform'⟩) failed

theorem State.pokeDram_inv {s : State} (a v : Word) (h : s.Inv = true) (hv : s.allLinesInvalid = true) :
    (s.pokeDram a v).Inv = true :=
  State.inv_withDram h hv (State.pokeDram_wf a v (State.dram_wf_of_inv h)) s.loadFailed

/-! ## The words of an image (R76) -/

theorem imageOf_length (ws : List Word) : (imageOf ws).length = 4 * ws.length := by
  simp [imageOf, Nat.mul_comm]

theorem toNat_ofNat_address {n : Nat} (h : n < 2 ^ 32) : (BitVec.ofNat 32 n).toNat = n :=
  (BitVec.toNat_ofNat ..).trans (Nat.mod_eq_of_lt h)

/-- The loader puts the first word at `n` and the rest behind it. -/
theorem loadWords_imageOf_cons (w : Word) (ws : List Word) (n : Nat) (s : State) :
    loadWords (imageOf (w :: ws)) n s = loadWords (imageOf ws) (n + 1) (s.pokeDram (BitVec.ofNat 32 n) w) := by
  have hword : wordOfBytes (w.extractLsb' 24 8) (w.extractLsb' 16 8) (w.extractLsb' 8 8) (w.extractLsb' 0 8) = w :=
    wordOfBytes_byteOf w
  conv_rhs => rw [← hword]
  rfl

/-- What an address reads as when the words `ws` have been put at `n`, `n + 1`, ... -/
def placedAt (n : Nat) (ws : List Word) (old : Nat → Word) (a : Nat) : Word :=
  if n ≤ a then (ws[a - n]?).getD (old a) else old a

theorem placedAt_cons (n : Nat) (w : Word) (ws : List Word) (old : Nat → Word) (a : Nat) :
    placedAt n (w :: ws) old a = placedAt (n + 1) ws (fun b => if b = n then w else old b) a := by
  simp only [placedAt]
  rcases Nat.lt_trichotomy a n with h | rfl | h
  · rw [if_neg (by omega), if_neg (by omega), if_neg (by omega)]
  · rw [if_pos le_rfl, if_neg (by omega), if_pos rfl, Nat.sub_self, List.getElem?_cons_zero, Option.getD_some]
  · rw [if_pos (by omega), if_pos (by omega), if_neg (by omega), show a - n = a - (n + 1) + 1 by omega,
      List.getElem?_cons_succ]

theorem loadWords_readWord {ws : List Word} {n : Nat} {s : State} (hd : s.chain.dram.wf = true)
    (hn : n + ws.length ≤ 2 ^ 32) (a : Nat) :
    Memory.readWord (loadWords (imageOf ws) n s).chain.dram.mem a =
      placedAt n ws (Memory.readWord s.chain.dram.mem) a := by
  induction ws generalizing n s with
  | nil => exact (ite_self _).symm
  | cons w ws ih =>
    rw [List.length_cons] at hn
    have hnth : (BitVec.ofNat 32 n).toNat = n := toNat_ofNat_address (by omega)
    have hpoke := funext (State.pokeDram_readWord (BitVec.ofNat 32 n) w hd)
    rw [loadWords_imageOf_cons, ih (State.pokeDram_wf _ w hd) (by omega), hpoke, hnth, placedAt_cons]

theorem mem_present_loadWords {ws : List Word} {n : Nat} {s : State} (hn : n + ws.length ≤ 2 ^ 32) (k : Nat) :
    k ∈ (loadWords (imageOf ws) n s).chain.dram.present ↔
      (n ≤ k ∧ k < n + ws.length) ∨ k ∈ s.chain.dram.present := by
  induction ws generalizing n s with
  | nil => exact (or_iff_right (by rw [List.length_nil]; omega)).symm
  | cons w ws ih =>
    rw [List.length_cons] at hn ⊢
    have hnth : (BitVec.ofNat 32 n).toNat = n := toNat_ofNat_address (by omega)
    rw [loadWords_imageOf_cons, ih (by omega), State.pokeDram_chain, Dram.set_present, mem_insertKey, hnth, ← or_assoc]
    exact or_congr_left (by omega)

theorem State.inspect_addresses (s : State) : s.inspect.map Prod.fst = s.chain.dram.present := by
  rw [State.inspect, Dram.inspect, List.map_map]
  exact List.map_id _

/-! ## What a load leaves, and a failed one (R76) -/

theorem imageOf_wellFormed (ws : List Word) : (ImageInput.mk (imageOf ws) false).wellFormed = true := by
  simp [ImageInput.wellFormed, imageWellFormed, imageOf_length]

theorem hostLoadImage_words {s : State} {ws : List Word} (left : List (Word × Word)) (hi : s.runState = .idle)
    (hf : s.loadFailed = false) (hv : s.allLinesInvalid = true) (hn : ws.length ≤ 2 ^ 32) :
    hostLoadImage { bytes := imageOf ws, unreadable := false } left s =
      .next { state := loadWords (imageOf ws) 0 s, error := none } := by
  rw [hostLoadImage, whenLoadable_ready _ hi hf hv, imageOf_wellFormed, if_neg (by decide),
    if_neg (by rw [imageOf_length]; omega)]

theorem ImageInput.malformed {input : ImageInput} (h : input.unreadable = true ∨ input.bytes.length % 4 ≠ 0) :
    input.wellFormed = false := by
  rcases h with h | h <;> simp [ImageInput.wellFormed, imageWellFormed, h]

theorem hostLoadImage_malformed {s : State} {input : ImageInput} (left : List (Word × Word)) (hi : s.runState = .idle)
    (hf : s.loadFailed = false) (hv : s.allLinesInvalid = true)
    (h : input.unreadable = true ∨ input.bytes.length % 4 ≠ 0) :
    hostLoadImage input left s = .next { state := s.partlyLoaded input left, error := some .loadError } := by
  rw [hostLoadImage, whenLoadable_ready _ hi hf hv, if_pos (ImageInput.malformed h)]

/-- A failed load changes words of DRAM below the number of whole words read, and sets its mark. -/
theorem partlyLoaded_frame (s : State) (input : ImageInput) (left : List (Word × Word)) :
    ∃ d, s.partlyLoaded input left = { s with chain := { s.chain with dram := d }, loadFailed := true } ∧
      (s.chain.dram.wf = true → d.wf = true) ∧
      ∀ a : Word, input.bytes.length / 4 ≤ a.toNat → s.chain.dram.wf = true →
        Memory.readWord d.mem a.toNat = Memory.readWord s.chain.dram.mem a.toNat := by
  obtain ⟨d, hframe, hwf, hsame⟩ :=
    pokeAll_frame (left.filter fun e => decide (e.1.toNat < input.bytes.length / 4)) s
  refine ⟨d, by rw [State.partlyLoaded, hframe], hwf, fun a ha => hsame a fun e he hea => ?_⟩
  have hlt := of_decide_eq_true (List.mem_filter.1 he).2
  rw [hea] at hlt
  omega

/-- The loaded words over DRAM, and so over Mem, since no line hides them. -/
theorem loadWords_mem {s : State} {ws : List Word} (hd : s.chain.dram.wf = true) (hv : s.allLinesInvalid = true)
    (hn : ws.length ≤ 2 ^ 32) (a : Word) :
    (loadWords (imageOf ws) 0 s).mem a = (ws[a.toNat]?).getD (s.mem a) := by
  obtain ⟨d, hframe, -⟩ := loadWords_frame (imageOf ws) 0 s
  have hv' : (loadWords (imageOf ws) 0 s).allLinesInvalid = true := by
    rw [hframe]
    exact hv
  rw [State.mem_of_invalid hv', State.mem_of_invalid hv, loadWords_readWord hd (by omega), placedAt,
    if_pos (Nat.zero_le _), Nat.sub_zero]

/-- From reset, where no address is in the map, a load lists its own addresses. -/
theorem loadWords_reset_addresses {c : Config} {ws : List Word} (hc : c.wellFormed = true) (hn : ws.length ≤ 2 ^ 32) :
    (loadWords (imageOf ws) 0 (State.resetWith c)).inspect.map Prod.fst = List.range ws.length := by
  obtain ⟨d, hframe, hwf⟩ := loadWords_frame (imageOf ws) 0 (State.resetWith c)
  have hsorted : (loadWords (imageOf ws) 0 (State.resetWith c)).chain.dram.present.Pairwise (· < ·) := by
    obtain ⟨-, hsorted, -, -⟩ := (Dram.wf_iff d).1 (hwf (State.dram_wf_of_inv (resetMeetsTheInvariant c hc)))
    rw [hframe]
    exact hsorted
  rw [State.inspect_addresses]
  refine List.Pairwise.eq_of_mem_iff hsorted List.pairwise_lt_range fun k => ?_
  rw [mem_present_loadWords (by omega), List.mem_range, State.resetWith_chain]
  simp only [List.not_mem_nil, or_false, Nat.zero_le, true_and, Nat.zero_add]

/-- Settles O31: the loader pokes one word after another, and no cache line hides them. -/
theorem imageWordsLandAtTheirAddresses : Obligations.ImageWordsLandAtTheirAddresses := by
  refine ⟨fun s ws left hinv hi hf hv hn => ?_, fun c ws left hc hn => ?_, fun c input left h => ?_⟩
  · refine ⟨_, hostLoadImage_words left hi hf hv hn, ?_, loadWords_mem (State.dram_wf_of_inv hinv) hv hn, fun k => ?_⟩
    · obtain ⟨d, hframe, -⟩ := loadWords_frame (imageOf ws) 0 s
      rw [hframe]
    · rw [State.inspect_addresses, State.inspect_addresses, mem_present_loadWords (by omega)]
      exact or_congr_left (by omega)
  · have hd := State.dram_wf_of_inv (resetMeetsTheInvariant c hc)
    have hv := State.resetWith_allLinesInvalid c
    refine ⟨_, hostLoadImage_words left rfl rfl hv hn, ?_, fun a => ?_, loadWords_reset_addresses hc hn⟩
    · obtain ⟨d, hframe, -⟩ := loadWords_frame (imageOf ws) 0 (State.resetWith c)
      rw [hframe]
      rfl
    · rw [loadWords_mem hd hv hn, State.mem_of_invalid hv, Dram.readWord_absent hd List.not_mem_nil]
  · refine ⟨_, hostLoadImage_malformed left rfl rfl (State.resetWith_allLinesInvalid c) h, ?_⟩
    obtain ⟨d, hframe, -⟩ := partlyLoaded_frame (State.resetWith c) input left
    rw [hframe]
    rfl

/-! ## A load that fails (U15, R243) -/

theorem partlyLoaded_inv {s : State} (input : ImageInput) (left : List (Word × Word)) (h : s.Inv = true)
    (hv : s.allLinesInvalid = true) : (s.partlyLoaded input left).Inv = true := by
  obtain ⟨d, hframe, hwf, -⟩ := partlyLoaded_frame s input left
  rw [hframe]
  exact State.inv_withDram h hv (hwf (State.dram_wf_of_inv h)) true

/-- One word that a failed load places reads as placed. -/
theorem partlyLoaded_word {s : State} {input : ImageInput} {a : Word} (v : Word) (hd : s.chain.dram.wf = true)
    (hv : s.allLinesInvalid = true) (ha : a.toNat < input.bytes.length / 4) :
    (s.partlyLoaded input [(a, v)]).mem a = v := by
  have hpoke : s.partlyLoaded input [(a, v)] = { s.pokeDram a v with loadFailed := true } := by
    have hfilter : [(a, v)].filter (fun e : Word × Word => decide (e.1.toNat < input.bytes.length / 4)) = [(a, v)] :=
      List.filter_cons_of_pos (decide_eq_true ha)
    rw [State.partlyLoaded, hfilter]
    rfl
  rw [hpoke, State.mem_of_invalid (s := { s.pokeDram a v with loadFailed := true }) hv]
  exact (State.pokeDram_readWord a v hd a.toNat).trans (if_pos rfl)

/-- After a failed load no image is taken (R243). -/
theorem hostLoadImage_afterFailure {s : State} (input : ImageInput) (left : List (Word × Word))
    (hi : s.runState = .idle) (hf : s.loadFailed = true) :
    hostLoadImage input left s = .refused .loadBeforeReset := by
  rw [hostLoadImage, whenLoadable, inIdle_idle _ hi, if_pos hf]

/-- Settles O54: the failed load writes only where its free argument says, below the bound, and marks the machine. -/
theorem failedLoadLeavesAnyWordsUntilReset : Obligations.FailedLoadLeavesAnyWordsUntilReset := by
  intro s input hinv hi hf hv hbad
  have hd := State.dram_wf_of_inv hinv
  refine ⟨fun left => ?_, fun a v ha => ⟨[(a, v)], _, hostLoadImage_malformed _ hi hf hv hbad,
    partlyLoaded_word v hd hv ha⟩⟩
  have hkeep := partlyLoaded_inv input left hinv hv
  obtain ⟨d, hframe, -, hsame⟩ := partlyLoaded_frame s input left
  refine ⟨_, hostLoadImage_malformed left hi hf hv hbad, hkeep, ?_, fun a ha => ?_, fun input' left' => ?_, rfl⟩
  · rw [hframe]
  · rw [hframe, State.mem_of_invalid hv, ← hsame a ha hd]
    exact State.mem_of_invalid (s := { s with chain := { s.chain with dram := d }, loadFailed := true }) hv a
  · rw [hframe]
    exact hostLoadImage_afterFailure input' left' hi rfl

/-! ## The host's actions and the clock edge keep the invariant -/

theorem hostLoadImage_inv {s : State} {input : ImageInput} {left : List (Word × Word)} {t : State} {e : Option Fault}
    (h : s.Inv = true) (hl : hostLoadImage input left s = .next { state := t, error := e }) : t.Inv = true := by
  obtain ⟨-, -, hv, ⟨-, hx⟩ | ⟨-, hx⟩⟩ := hostLoadImage_cases hl <;> cases hx
  · exact partlyLoaded_inv input left h hv
  · obtain ⟨d, hframe, hwf⟩ := loadWords_frame input.bytes 0 s
    rw [hframe]
    exact State.inv_withDram h hv (hwf (State.dram_wf_of_inv h)) s.loadFailed

theorem hostGet_inv {s : State} (a : Word) (h : s.Inv = true) : (hostGet a s).2.Inv = true :=
  State.inv_withChain h (cleanLinesStayCoherent.2 s.config s.chain a 0#32 (State.chain_ok_of_inv h)).1 s.loadFailed

theorem hostSet_inv {s : State} (a v : Word) (h : s.Inv = true) : (hostSet a v s).2.Inv = true :=
  State.inv_withChain h (cleanLinesStayCoherent.2 s.config s.chain a v (State.chain_ok_of_inv h)).2 s.loadFailed

theorem rst_inv {s : State} (h : s.Inv = true) : s.rst.Inv = true :=
  resetMeetsTheInvariant s.config (Chain.config_of_ok (State.chain_ok_of_inv h))

theorem actWriteBack_config {s t : State} (h : actWriteBack s = .next t) : t.config = s.config := by
  obtain ⟨x, rfl⟩ := actWriteBack_frame h
  rfl

theorem actAccessMemory_config {s t : State} (h : actAccessMemory s = .next t) : t.config = s.config := by
  rcases actAccessMemory_next h with ⟨-, rfl⟩ | ⟨r, acc, -, -, rfl⟩ <;> rfl

theorem actExecute_config {s t : State} (h : actExecute s = .next t) : t.config = s.config := by
  rcases actExecute_next h with ⟨-, rfl⟩ | ⟨r, -, ⟨r', -, rfl⟩ | ⟨-, rfl⟩⟩ <;> rfl

theorem actDecode_config {s t : State} (h : actDecode s = .next t) : t.config = s.config := by
  rcases actDecode_next h with ⟨-, rfl⟩ | ⟨w, -, ⟨i, -, rfl⟩ | ⟨-, rfl⟩⟩ <;> rfl

theorem actFetch_config {s t : State} (h : actFetch s = .next t) : t.config = s.config := by
  obtain ⟨n, w, ch, -, heq⟩ := actFetch_next s
  rw [heq] at h
  cases h
  rfl

/-- No step changes the parameters (R6). -/
theorem step_config {s t : State} (h : step s = .next t) : t.config = s.config := by
  by_cases ha : s.active = true
  · cases stepRun_of_step ha h with
    | completed h1 h2 h3 _ h4 _ h5 done =>
      rw [done, actReturn_config, actIncrement_config, actFetch_config h5, actDecode_config h4, actExecute_config h3,
        actAccessMemory_config h2, actWriteBack_config h1]
    | executeFaults h1 h2 h3 _ => rw [actExecute_config h3, actAccessMemory_config h2, actWriteBack_config h1]
    | decodeFaults h1 h2 h3 _ h4 _ =>
      rw [actDecode_config h4, actExecute_config h3, actAccessMemory_config h2, actWriteBack_config h1]
  · rw [step_inactive ha] at h
    cases h
    rfl

/-- A machine without a cache has no line that could be valid. -/
theorem State.allLinesInvalid_of_no_levels {s : State} (h : s.Inv = true) (hl : s.config.levels = []) :
    s.allLinesInvalid = true := by
  obtain ⟨-, hform⟩ := Chain.ok_iff.1 (State.chain_ok_of_inv h)
  rw [hl] at hform
  obtain ⟨-, hstores⟩ := ChainForm.nil_iff.1 hform
  exact State.allLinesInvalid_iff.2 (hstores ▸ nofun)

/-- A step, and then a DRAM word, at one edge of a machine without a cache. -/
theorem step_pokeDram_inv {s t : State} (a v : Word) (h : s.Inv = true) (hl : s.config.levels = [])
    (hs : step s = .next t) : (t.pokeDram a v).Inv = true := by
  have ht := everyStepKeepsTheInvariant s t h hs
  exact State.pokeDram_inv a v ht (State.allLinesInvalid_of_no_levels ht ((step_config hs).symm ▸ hl))

theorem clockEdge_inv {loadFirst : Bool} {p : PortIn} {s t : State} (h : s.Inv = true)
    (hport : p.rst = false → p.ldValid = true →
      s.allLinesInvalid = true ∧ (p.stepEn = true → loadFirst = true ∨ s.config.levels = []))
    (he : clockEdge loadFirst p s = .next t) : t.Inv = true := by
  rcases clockEdge_cases he with ⟨-, rfl⟩ | ⟨hrst, ⟨-, -, rfl⟩ | ⟨-, -, hs⟩ | ⟨-, hld, -, rfl⟩ | ⟨hen, hld, -, hboth⟩⟩
  · exact rst_inv h
  · exact h
  · exact everyStepKeepsTheInvariant s t h hs
  · exact State.pokeDram_inv _ _ h (hport hrst hld).1
  · obtain ⟨hv, horder⟩ := hport hrst hld
    rcases hboth with ⟨-, hs⟩ | ⟨hlast, u, hs, rfl⟩
    · exact everyStepKeepsTheInvariant _ t (State.pokeDram_inv _ _ h hv) hs
    · have hl := (horder hen).resolve_left (by rw [hlast]; decide)
      exact step_pokeDram_inv _ _ h hl hs

/-- Settles O55: each action rewrites a register, memory in its form, or DRAM under invalid lines. -/
theorem hostActionsKeepTheInvariant : Obligations.HostActionsKeepTheInvariant := by
  intro s h
  refine ⟨fun input left t e hl => hostLoadImage_inv h hl, fun a v t hv hl => ?_, fun r v t hp => ?_,
    fun a => hostGet_inv a h, fun a v => hostSet_inv a v h, fun loadFirst p t => clockEdge_inv h⟩
  · obtain ⟨-, rfl⟩ := hostLoadWord_next hl
    exact State.pokeDram_inv a v h hv
  · obtain ⟨-, hnext⟩ := inIdle_next hp
    cases hnext
    exact h

end Sys2Proof.Machine
end

section
/-!
PROOFS. Statements O1 to O4: the decoder and the encoder (30_encoding.md sections 1, 3 and 4).

`decodeWord` picks one of three opcode maps by the type field (`decodeWord_alu` and its siblings). Which words a map
rejects, and that it reads a word only at the bits `usedBits` names, is shown once per map.
-/

namespace Sys2Proof

/-! ## The type field picks the opcode map (R91, R103) -/

theorem decodeWord_alu {w : Word} (h : itypeField w = 0#2) : decodeWord w = decodeAlu w := by
  simp only [decodeWord, h]

theorem decodeWord_memory {w : Word} (h : itypeField w = 1#2) : decodeWord w = decodeMemory w := by
  simp only [decodeWord, h]

theorem decodeWord_control {w : Word} (h : itypeField w = 2#2) : decodeWord w = decodeControl w := by
  simp only [decodeWord, h]

theorem decodeWord_graphics {w : Word} (h : itypeField w = 3#2) : decodeWord w = .error .reservedGraphics := by
  simp [decodeWord, h]

/-- A type field has one of four values (R91). -/
theorem itype_cases (t : BitVec 2) : t = 0#2 ∨ t = 1#2 ∨ t = 2#2 ∨ t = 3#2 := by
  revert t
  decide

/-! ## Decoding a canonical word (R93 to R103) -/

/-- The decoder reads an instruction back from its canonical word: by type, from the fields of its format. -/
theorem decodeWord_encode (i : Instr) : decodeWord (encode i) = .ok i := by
  cases i with
  | addu | addui | adds | addsi | subu | subui | subs | subsi | mulu | mului | muls | mulsi | divu | divui | divs
  | divsi | cmpu | cmps | asl | asli | asr | asri | lsl | lsli | lsr | lsri | and | andi | or | ori | xor | xori | not
  | mov | nop => simp [encode, decodeWord_alu, decodeAlu]
  | ldr | ldri | str | stri => simp [encode, decodeWord_memory, decodeMemory]
  | jmp | jmpi | jmps | jmpsi | sih | int | rfi => simp [encode, decodeWord_control, decodeControl]

/-! ## The words each opcode map rejects (R100 to R102, R104) -/

theorem decodeAlu_error_iff (w : Word) : (∃ e, decodeAlu w = .error e) ↔ 35 ≤ (opcode6 w).toNat := by
  unfold decodeAlu
  split
  -- the last arm: the opcode is none of the assigned ones
  case h_36 =>
    simp only [imp_false] at *
    refine iff_of_true ⟨_, rfl⟩ ?_
    bv_omega
  all_goals
    rename_i hop
    simp [hop]

theorem decodeMemory_error_iff (w : Word) : (∃ e, decodeMemory w = .error e) ↔ 4 ≤ (opcode3 w).toNat := by
  unfold decodeMemory
  split
  -- the last arm: the opcode is none of the assigned ones
  case h_5 =>
    simp only [imp_false] at *
    refine iff_of_true ⟨_, rfl⟩ ?_
    bv_omega
  all_goals
    rename_i hop
    simp [hop]

theorem decodeControl_error_iff (w : Word) : (∃ e, decodeControl w = .error e) ↔ (opcode3 w).toNat = 7 := by
  unfold decodeControl
  split
  -- the last arm: the opcode is none of the assigned ones
  case h_8 =>
    simp only [imp_false] at *
    refine iff_of_true ⟨_, rfl⟩ ?_
    bv_omega
  all_goals
    rename_i hop
    simp [hop]

/-- The illegal words: type 3, and in each other type the opcodes its map leaves unassigned. -/
theorem decodeWord_error_iff (w : Word) :
    (∃ e, decodeWord w = .error e) ↔
      itypeField w = 3#2 ∨ (itypeField w = 0#2 ∧ 35 ≤ (opcode6 w).toNat) ∨
        (itypeField w = 1#2 ∧ 4 ≤ (opcode3 w).toNat) ∨ (itypeField w = 2#2 ∧ (opcode3 w).toNat = 7) := by
  rcases itype_cases (itypeField w) with h | h | h | h
  · rw [decodeWord_alu h, decodeAlu_error_iff]
    simp [h]
  · rw [decodeWord_memory h, decodeMemory_error_iff]
    simp [h]
  · rw [decodeWord_control h, decodeControl_error_iff]
    simp [h]
  · rw [decodeWord_graphics h]
    simp [h]

/-! ## The bits a decoding reads (R105) -/

/-- Words that agree under a mask agree on every field inside it. -/
theorem extractLsb'_eq_of_and_eq {w w' m : Word} (hm : w &&& m = w' &&& m) {start len : Nat}
    (hfield : m.extractLsb' start len = BitVec.allOnes len) :
    w'.extractLsb' start len = w.extractLsb' start len := by
  have h := congrArg (fun v : Word => v.extractLsb' start len) hm
  simp only [BitVec.extractLsb'_and, hfield, BitVec.and_allOnes] at h
  exact h.symm

/-- The type field lies inside every mask. -/
theorem usedBits_itype (i : Instr) : (usedBits i).extractLsb' 5 2 = BitVec.allOnes 2 := by
  cases i <;> (simp only [usedBits]; decide)

/-- The opcode and the operand fields of every arm of the map lie inside the mask of its instruction. -/
theorem decodeAlu_ignores_unused {w w' : Word} {i : Instr} (h : decodeAlu w = .ok i)
    (hm : w &&& usedBits i = w' &&& usedBits i) : decodeAlu w' = .ok i := by
  unfold decodeAlu at h
  split at h <;> cases h
  all_goals
    rename_i hop
    simp only [usedBits] at hm
    have hop' : opcode6 w' = opcode6 w := extractLsb'_eq_of_and_eq hm (by decide)
    rw [hop] at hop'
    simp (disch := decide) only [decodeAlu, hop', aluField1, aluField2, aluField3, imm9Field, imm14Field,
      extractLsb'_eq_of_and_eq hm]

theorem decodeMemory_ignores_unused {w w' : Word} {i : Instr} (h : decodeMemory w = .ok i)
    (hm : w &&& usedBits i = w' &&& usedBits i) : decodeMemory w' = .ok i := by
  unfold decodeMemory at h
  split at h <;> cases h
  all_goals
    rename_i hop
    simp only [usedBits] at hm
    have hop' : opcode3 w' = opcode3 w := extractLsb'_eq_of_and_eq hm (by decide)
    rw [hop] at hop'
    simp (disch := decide) only [decodeMemory, hop', memField1, memField2, imm17Field, extractLsb'_eq_of_and_eq hm]

theorem decodeControl_ignores_unused {w w' : Word} {i : Instr} (h : decodeControl w = .ok i)
    (hm : w &&& usedBits i = w' &&& usedBits i) : decodeControl w' = .ok i := by
  unfold decodeControl at h
  split at h <;> cases h
  all_goals
    rename_i hop
    simp only [usedBits] at hm
    have hop' : opcode3 w' = opcode3 w := extractLsb'_eq_of_and_eq hm (by decide)
    rw [hop] at hop'
    simp (disch := decide) only [decodeControl, hop', memField1, imm22Field, condField, extractLsb'_eq_of_and_eq hm]

/-- Decoding reads only the bits `usedBits` names. -/
theorem decodeWord_ignores_unused {w w' : Word} {i : Instr} (h : decodeWord w = .ok i)
    (hm : w &&& usedBits i = w' &&& usedBits i) : decodeWord w' = .ok i := by
  have hitype : itypeField w' = itypeField w := extractLsb'_eq_of_and_eq hm (usedBits_itype i)
  rcases itype_cases (itypeField w) with ht | ht | ht | ht
  · rw [decodeWord_alu ht] at h
    rw [decodeWord_alu (hitype.trans ht)]
    exact decodeAlu_ignores_unused h hm
  · rw [decodeWord_memory ht] at h
    rw [decodeWord_memory (hitype.trans ht)]
    exact decodeMemory_ignores_unused h hm
  · rw [decodeWord_control ht] at h
    rw [decodeWord_control (hitype.trans ht)]
    exact decodeControl_ignores_unused h hm
  · rw [decodeWord_graphics ht] at h
    cases h

/-- A word that agrees with the canonical word of `i` on the used bits decodes to `i`. -/
theorem decodeWord_of_used_eq_encode {w : Word} {i : Instr} (h : encode i &&& usedBits i = w &&& usedBits i) :
    decodeWord w = .ok i :=
  decodeWord_ignores_unused (decodeWord_encode i) h

end Sys2Proof

namespace Sys2Proof.Machine

/-! ## The statements -/

/-- Settles O1: the canonical word's fields are the instruction's type, opcode and operands. -/
theorem decodeOfEncode : Obligations.DecodeOfEncode :=
  decodeWord_encode

/-- Settles O2: the words the opcode maps reject, and the DecodeError that the decode action takes. -/
theorem illegalWordsAreExactlyTheUnassignedPairs : Obligations.IllegalWordsAreExactlyTheUnassignedPairs := by
  intro w
  refine ⟨decodeWord_error_iff w, ?_⟩
  rintro s hslot ⟨e, he⟩
  exact actDecode_illegal hslot he

/-- Settles O3: the fields a format reads lie inside its mask. -/
theorem unusedBitsAreIgnored : Obligations.UnusedBitsAreIgnored :=
  fun _ _ _ => decodeWord_ignores_unused

/-- Settles O4: each word agrees with the canonical word of its instruction on the bits the format uses. -/
theorem specWordsDecode : Obligations.SpecWordsDecode := by
  refine ⟨?_, ?_, ?_, ?_, ?_, ?_, ?_, ?_⟩ <;> exact decodeWord_of_used_eq_encode (by decide)

end Sys2Proof.Machine
end

section
/-!
PROOFS. Statements O19 and O20: the loads and the stores (40_load_store.md R120 to R124), their words (R101) and their four
stage operations. What a stage operation does to the state is shown once for every instruction whose row of the table
`opsOf` has a given form; the memory's part is `Chain.memRead_view` and `Chain.memWrite_view` (R69).
-/

namespace Sys2Proof

/-! ## Words of the Memory type (R90, R101) -/

/-- The pattern `w[9:5]` is the 3-bit opcode above the type (R90). -/
theorem opcode3_itype_of_pattern {w : Word} {op : BitVec 3} {t : BitVec 2} (h : w.extractLsb' 5 5 = op ++ t) :
    opcode3 w = op ∧ itypeField w = t := by
  have hsplit : opcode3 w ++ itypeField w = op ++ t :=
    (BitVec.extractLsb'_append_extractLsb'_eq_extractLsb' rfl).trans h
  constructor
  · simpa only [BitVec.extractLsb'_append_eq_left] using congrArg (BitVec.extractLsb' 2 3) hsplit
  · simpa only [BitVec.extractLsb'_append_eq_right] using congrArg (BitVec.extractLsb' 0 2) hsplit

theorem decodeMemory_ldr {w : Word} (h : opcode3 w = 0#3) : decodeMemory w = .ok (.ldr (memField1 w) (memField2 w)) := by
  simp only [decodeMemory, h]

theorem decodeMemory_ldri {w : Word} (h : opcode3 w = 1#3) :
    decodeMemory w = .ok (.ldri (memField1 w) (imm17Field w)) := by
  simp only [decodeMemory, h]

theorem decodeMemory_str {w : Word} (h : opcode3 w = 2#3) : decodeMemory w = .ok (.str (memField1 w) (memField2 w)) := by
  simp only [decodeMemory, h]

theorem decodeMemory_stri {w : Word} (h : opcode3 w = 3#3) :
    decodeMemory w = .ok (.stri (memField1 w) (imm17Field w)) := by
  simp only [decodeMemory, h]

end Sys2Proof

namespace Sys2Proof.Machine

/-- The words of a Memory opcode are those whose pattern has it above the type 1 (R91, R101). -/
theorem wordsM_of_decodeMemory (op : BitVec 3) {i : Word → Instr}
    (h : ∀ {w : Word}, opcode3 w = op → decodeMemory w = .ok (i w)) : WordsM (op ++ 1#2) i := by
  intro w hw
  obtain ⟨hop, htype⟩ := opcode3_itype_of_pattern hw
  exact (decodeWord_memory htype).trans (h hop)

/-! ## One stage operation, read off the table -/

section Table

variable {i : Instr}

theorem decodesTo_of_opsOf {fill : Regs → InFlight → InFlight} (h : ∀ c, (opsOf i c).decode = fill) :
    DecodesTo i fill := by
  intro s w hs hw
  rw [exec_decode hs hw, decodedRecord, h]
  rfl

theorem executeMoves_of_opsOf (h : ∀ c, (opsOf i c).execute = executeNothing) : ExecuteMoves i :=
  fun s r hs hr => exec_execute hs hr (congrFun (h s.config) r)

/-- A row that reads memory answers `Mem(I.addr)` and leaves `Mem` as it was (R69, R120, R121). -/
theorem accessLoads_of_opsOf (h : ∀ c, (opsOf i c).accessMemory = accessLoad c) : AccessLoads i := by
  intro s r a hs hr ha hok
  obtain ⟨n, ch, hread, -, hview⟩ := Chain.memRead_view a hok
  have hacc := (congrFun₂ (h s.config) r s.chain).trans (accessLoad_set ha hread)
  exact ⟨n, ch, hread, exec_accessMemory hs hr hacc, hview⟩

/-- A row that writes `I.a` at its target changes that word of `Mem` only (R69, R122, R123, R191). -/
theorem accessStores_of_opsOf {target : State → InFlight → Option Word}
    (h : ∀ {s : State} {r : InFlight} {a v : Word}, target s r = some a → r.a = some v →
      (opsOf i s.config).accessMemory r s.chain = accessWrite s.config r s.chain a v) : AccessStores i target := by
  intro s r a v hs hr ha hv hok
  obtain ⟨n, ch, hwrite, -, hview⟩ := Chain.memWrite_view a v hok
  have hacc := (h ha hv).trans (accessWrite_set hwrite)
  exact ⟨n, ch, hwrite, exec_accessMemory hs hr hacc, hview⟩

theorem writesRd_of_opsOf {v : InFlight → Option Word}
    (h : ∀ {c : Config} {r : InFlight} {x : Regs} {d : Reg} {y : Word}, r.rd = some d → v r = some y →
      (opsOf i c).writeBack r x = .next (writeReg x d y)) : WritesRd i v :=
  fun _ _ _ _ hs hr hd hy => exec_writeBack hs hr (h hd hy)

theorem writesRegs_of_opsOf {ok : InFlight → Prop} {f : InFlight → Regs → Regs}
    (h : ∀ {c : Config} {r : InFlight} {x : Regs}, ok r → (opsOf i c).writeBack r x = .next (f r x)) :
    WritesRegs i ok f :=
  fun _ _ hs hr hok => exec_writeBack hs hr (h hok)

end Table

/-! ## The loads and the stores (R120 to R124) -/

/-- The stage operations of a load whose decode is `fill`. -/
theorem load_stages {i : Instr} {fill : Regs → InFlight → InFlight}
    (h : ∀ c, opsOf i c = ⟨fill, executeNothing, accessLoad c, writeResult⟩) :
    DecodesTo i fill ∧ ExecuteMoves i ∧ AccessLoads i ∧ WritesRd i (fun r => r.res) := by
  refine ⟨decodesTo_of_opsOf fun c => ?_, executeMoves_of_opsOf fun c => ?_, accessLoads_of_opsOf fun c => ?_,
    writesRd_of_opsOf fun hd hv => ?_⟩
  · rw [h]
  · rw [h]
  · rw [h]
  · rw [h]
    exact writeResult_set hd hv

theorem accessStore_eq_accessWrite {c : Config} {r : InFlight} {ch : Chain} {a v : Word} (ha : r.addr = some a)
    (hv : r.a = some v) : accessStore c r ch = accessWrite c r ch a v := by
  rw [accessStore, ha, hv, needField_some, needField_some]

/-- The stage operations of a store whose decode is `fill`. -/
theorem store_stages {i : Instr} {fill : Regs → InFlight → InFlight}
    (h : ∀ c, opsOf i c = ⟨fill, executeNothing, accessStore c, writeNothing⟩) :
    DecodesTo i fill ∧ ExecuteMoves i ∧ AccessStores i (fun _ r => r.addr) ∧
      WritesRegs i (fun _ => True) (fun _ x => x) := by
  refine ⟨decodesTo_of_opsOf fun c => ?_, executeMoves_of_opsOf fun c => ?_, accessStores_of_opsOf fun ha hv => ?_,
    writesRegs_of_opsOf fun _ => ?_⟩
  · rw [h]
  · rw [h]
  · rw [h]
    exact accessStore_eq_accessWrite ha hv
  · rw [h]
    rfl

/-- Settles O19: the words by the opcode map, the stage operations by the load's row of the table. -/
theorem loadRules : Obligations.LoadRules :=
  ⟨wordsM_of_decodeMemory 0#3 decodeMemory_ldr, wordsM_of_decodeMemory 1#3 decodeMemory_ldri,
    fun _ _ => load_stages fun _ => rfl, fun _ _ => load_stages fun _ => rfl⟩

/-- Settles O20: the words by the opcode map, the stage operations by the store's row of the table. -/
theorem storeRules : Obligations.StoreRules :=
  ⟨wordsM_of_decodeMemory 2#3 decodeMemory_str, wordsM_of_decodeMemory 3#3 decodeMemory_stri,
    fun _ _ => store_stages fun _ => rfl, fun _ _ => store_stages fun _ => rfl⟩

end Sys2Proof.Machine
end

section
/-!
PROOFS. Statements O9 to O12, O14 and O15: moves, arithmetic, divides and compares (41_move_arith_compare.md R130 to R152,
and NOT's R176). Their words come from the opcode map R100. Their stage operations are shown once per form that a row of the
table `opsOf` can have: a row that computes a result (`binary_computes`, `divide_computes`), and a row that only writes back
(`writeBackOnly_stages`).
-/

namespace Sys2Proof.Machine

/-! ## Words of the ALU type (R94, R100) -/

theorem wordsA3R_of_decodeAlu {op : BitVec 6} {ctor : Reg → Reg → Reg → Instr}
    (h : ∀ w : Word, opcode6 w = op → decodeAlu w = .ok (ctor (aluField1 w) (aluField2 w) (aluField3 w))) :
    WordsA3R op ctor :=
  fun w htype hop => (decodeWord_alu htype).trans (h w hop)

theorem wordsA3I_of_decodeAlu {op : BitVec 6} {ctor : Reg → Reg → BitVec 9 → Instr}
    (h : ∀ w : Word, opcode6 w = op → decodeAlu w = .ok (ctor (aluField1 w) (aluField2 w) (imm9Field w))) :
    WordsA3I op ctor :=
  fun w htype hop => (decodeWord_alu htype).trans (h w hop)

theorem wordsA2R_of_decodeAlu {op : BitVec 6} {ctor : Reg → Reg → Instr}
    (h : ∀ w : Word, opcode6 w = op → decodeAlu w = .ok (ctor (aluField1 w) (aluField2 w))) : WordsA2R op ctor :=
  fun w htype hop => (decodeWord_alu htype).trans (h w hop)

/-- The opcodes of MOV, NOT and the compares (R130, R151, R152, R176). -/
theorem wordsA2R_move_compare :
    WordsA2R 33#6 .mov ∧ WordsA2R 32#6 .not ∧ WordsA2R 16#6 .cmpu ∧ WordsA2R 17#6 .cmps := by
  refine ⟨wordsA2R_of_decodeAlu ?_, wordsA2R_of_decodeAlu ?_, wordsA2R_of_decodeAlu ?_, wordsA2R_of_decodeAlu ?_⟩
  all_goals
    intro w hop
    simp only [decodeAlu, hop]

/-! ## One stage operation, read off the table -/

section Forms

variable {i : Instr} {fill : Regs → InFlight → InFlight}

theorem executesTo_of_opsOf {ok : Word → Word → Prop} {f : Word → Word → Word}
    (h : ∀ {c : Config} {r : InFlight} {a b : Word}, r.a = some a → r.b = some b → ok a b →
      (opsOf i c).execute r = .next { r with res := some (f a b) }) : ExecutesTo i ok f :=
  fun _ _ _ _ hs hr ha hb hok => exec_execute hs hr (h ha hb hok)

theorem accessMoves_of_opsOf (h : ∀ c, (opsOf i c).accessMemory = accessNothing) : AccessMoves i := by
  intro s r hs hr
  have hmove := exec_accessMemory hs hr (congrFun₂ (h s.config) r s.chain)
  simpa only [BitVec.ofNat_eq_ofNat, BitVec.add_zero] using hmove

/-! ## Rows that compute a result (R148) -/

/-- A row whose execute answers `f` of the two operands, where `ok` admits them. -/
theorem computeRule_of_opsOf {exe : InFlight → Result InFlight} {ok : Word → Word → Prop} {f : Word → Word → Word}
    (h : ∀ c, opsOf i c = ⟨fill, exe, accessNothing, writeResult⟩)
    (hexe : ∀ {r : InFlight} {a b : Word}, r.a = some a → r.b = some b → ok a b →
      exe r = .next { r with res := some (f a b) }) : ComputeRule i ok f fill := by
  refine ⟨decodesTo_of_opsOf fun c => ?_, executesTo_of_opsOf fun ha hb hok => ?_, accessMoves_of_opsOf fun c => ?_,
    writesRd_of_opsOf fun hd hv => ?_⟩
  · rw [h]
  · rw [h]
    exact hexe ha hb hok
  · rw [h]
  · rw [h]
    exact writeResult_set hd hv

/-- A row that computes with an operation which is `f` takes every pair of operands (R131). -/
theorem binary_computes {op f : Word → Word → Word} (hop : ∀ a b, op a b = f a b)
    (h : ∀ c, opsOf i c = ⟨fill, executeBinary op, accessNothing, writeResult⟩) : ComputeRule i anyOperands f fill := by
  obtain rfl : op = f := funext₂ hop
  exact computeRule_of_opsOf h fun ha hb _ => executeBinary_set ha hb

/-- A row that divides with an operation which is `f` takes every divisor but 0 (R131, R144). -/
theorem divide_computes {op f : Word → Word → Word} (hop : ∀ a b, op a b = f a b)
    (h : ∀ c, opsOf i c = ⟨fill, executeDivide op, accessNothing, writeResult⟩) :
    ComputeRule i divisorNotZero f fill := by
  obtain rfl : op = f := funext₂ hop
  exact computeRule_of_opsOf h fun ha hb h0 => executeDivide_set ha hb h0

/-! ## Rows that only write back -/

/-- Such a row's decode is `fill`, and its execute and access-memory just move the record. -/
theorem writeBackOnly_stages {wb : InFlight → Regs → Result Regs}
    (h : ∀ c, opsOf i c = ⟨fill, executeNothing, accessNothing, wb⟩) :
    DecodesTo i fill ∧ ExecuteMoves i ∧ AccessMoves i := by
  refine ⟨decodesTo_of_opsOf fun c => ?_, executeMoves_of_opsOf fun c => ?_, accessMoves_of_opsOf fun c => ?_⟩ <;> rw [h]

/-- MOV and NOT write `g` of the value that decode took (R130, R176). -/
theorem writesRd_of_writeOfA {g : Word → Word} (h : ∀ c, (opsOf i c).writeBack = writeOfA g) :
    WritesRd i (fun r => r.a.map g) := by
  refine writesRd_of_opsOf fun hd hv => ?_
  obtain ⟨a, ha, rfl⟩ := Option.map_eq_some_iff.1 hv
  rw [h]
  exact writeOfA_set hd ha

/-- A compare overwrites the status register, and no other one (R150). -/
theorem exec_writeBack_compare {cmp : Word → Word → Word} {s : State} {r : InFlight} {a b : Word}
    (h : ∀ c, (opsOf i c).writeBack = writeCompare cmp) (hs : s.stageOp = .writeBack) (hr : s.slotM = some r)
    (ha : r.a = some a) (hb : r.b = some b) :
    exec i s = .next { s.setReg Reg.status (cmp a b) with slotW := some r } :=
  exec_writeBack hs hr ((congrFun₂ (h s.config) r s.regs).trans (writeCompare_set ha hb))

end Forms

/-! ## The statements -/

/-- Settles O9: MOV and NOT only write back the value that decode took, as it is or complemented. -/
theorem moveAndNotRules : Obligations.MoveAndNotRules := by
  obtain ⟨hmov, hnot, -, -⟩ := wordsA2R_move_compare
  refine ⟨hmov, hnot, fun rd rs => ?_⟩
  obtain ⟨hd, he, ha⟩ := writeBackOnly_stages (i := .mov rd rs) fun _ => rfl
  obtain ⟨hd', he', ha'⟩ := writeBackOnly_stages (i := .not rd rs) fun _ => rfl
  have hmove : WritesRd (.mov rd rs) (fun r => r.a.map id) := writesRd_of_writeOfA fun _ => rfl
  simp only [Option.map_id_fun, id] at hmove
  exact ⟨⟨hd, he, ha, hmove⟩, hd', he', ha', writesRd_of_writeOfA fun _ => rfl⟩

/-- Settles O10: the words by the opcode map, the stage operations by each row's operation, which is the word operation. -/
theorem addSubtractMultiplyRegisterRules : Obligations.AddSubtractMultiplyRegisterRules := by
  refine ⟨⟨wordsA3R_of_decodeAlu ?_, fun _ _ _ => binary_computes aluAdd_eq fun _ => rfl⟩,
    ⟨wordsA3R_of_decodeAlu ?_, fun _ _ _ => binary_computes aluAdd_eq fun _ => rfl⟩,
    ⟨wordsA3R_of_decodeAlu ?_, fun _ _ _ => binary_computes aluSub_eq fun _ => rfl⟩,
    ⟨wordsA3R_of_decodeAlu ?_, fun _ _ _ => binary_computes aluSub_eq fun _ => rfl⟩,
    ⟨wordsA3R_of_decodeAlu ?_, fun _ _ _ => binary_computes aluMul_eq fun _ => rfl⟩,
    ⟨wordsA3R_of_decodeAlu ?_, fun _ _ _ => binary_computes aluMul_eq fun _ => rfl⟩⟩
  all_goals
    intro w hop
    simp only [decodeAlu, hop]

/-- Settles O11: as O10; the rows zero-extend `imm9` for the unsigned forms and sign-extend it for the signed ones (R97). -/
theorem addSubtractMultiplyImmediateRules : Obligations.AddSubtractMultiplyImmediateRules := by
  refine ⟨⟨wordsA3I_of_decodeAlu ?_, fun _ _ _ => binary_computes aluAdd_eq fun _ => rfl⟩,
    ⟨wordsA3I_of_decodeAlu ?_, fun _ _ _ => binary_computes aluAdd_eq fun _ => rfl⟩,
    ⟨wordsA3I_of_decodeAlu ?_, fun _ _ _ => binary_computes aluSub_eq fun _ => rfl⟩,
    ⟨wordsA3I_of_decodeAlu ?_, fun _ _ _ => binary_computes aluSub_eq fun _ => rfl⟩,
    ⟨wordsA3I_of_decodeAlu ?_, fun _ _ _ => binary_computes aluMul_eq fun _ => rfl⟩,
    ⟨wordsA3I_of_decodeAlu ?_, fun _ _ _ => binary_computes aluMul_eq fun _ => rfl⟩⟩
  all_goals
    intro w hop
    simp only [decodeAlu, hop]

/-- Settles O12: a divide's row answers the quotient for every divisor but 0. -/
theorem divideRules : Obligations.DivideRules := by
  refine ⟨⟨wordsA3R_of_decodeAlu ?_, fun _ _ _ => divide_computes aluDivU_eq fun _ => rfl⟩,
    ⟨wordsA3I_of_decodeAlu ?_, fun _ _ _ => divide_computes aluDivU_eq fun _ => rfl⟩,
    ⟨wordsA3R_of_decodeAlu ?_, fun _ _ _ => divide_computes aluDivS_eq fun _ => rfl⟩,
    ⟨wordsA3I_of_decodeAlu ?_, fun _ _ _ => divide_computes aluDivS_eq fun _ => rfl⟩⟩
  all_goals
    intro w hop
    simp only [decodeAlu, hop]

/-- Settles O14: the signed quotient leaves the range of a word in the wrapping case only. -/
theorem divisionMeetsTheLawsOfTheRule : Obligations.DivisionMeetsTheLawsOfTheRule := by
  intro a b _
  rw [aluDivU_eq, aluDivS_eq]
  refine ⟨BitVec.toNat_udiv, fun hwrap => ?_, ?_⟩
  · exact BitVec.toInt_sdiv_of_ne_or_ne a b (not_and_or.1 hwrap)
  · rintro ⟨rfl, rfl⟩
    decide

/-- Settles O15: the compares' rows only write back, and what they write to the status register is the comparison. -/
theorem compareRules : Obligations.CompareRules := by
  obtain ⟨-, -, hcmpu, hcmps⟩ := wordsA2R_move_compare
  refine ⟨hcmpu, hcmps, fun rs1 rs2 => ⟨?_, fun s r a b hs hr ha hb => ⟨?_, ?_⟩⟩⟩
  · intro i hi
    rcases List.mem_pair.1 hi with rfl | rfl
    · exact writeBackOnly_stages fun _ => rfl
    · exact writeBackOnly_stages fun _ => rfl
  · rw [← compareUnsigned_eq]
    exact exec_writeBack_compare (fun _ => rfl) hs hr ha hb
  · rw [← compareSigned_eq]
    exact exec_writeBack_compare (fun _ => rfl) hs hr ha hb

end Sys2Proof.Machine
end

section
/-!
PROOFS. Statements O16 to O18: the shifts and the logic instructions (42_shift_logic_not.md R160 to R175, R177). Their words
come from the opcode map R100, and each row of the table `opsOf` computes a result (`binary_computes`). The three shift
operations are read as numbers from the word operations that they are (`aluShl_eq`, `aluShrL_eq`, `aluShrA_eq`).
-/

namespace Sys2Proof.Machine

/-! ## Words of format A2I (R94, R100) -/

theorem wordsA2I_of_decodeAlu {op : BitVec 6} {ctor : Reg → BitVec 14 → Instr}
    (h : ∀ w : Word, opcode6 w = op → decodeAlu w = .ok (ctor (aluField1 w) (imm14Field w))) : WordsA2I op ctor :=
  fun w htype hop => (decodeWord_alu htype).trans (h w hop)

/-! ## The shift operations as numbers (R160) -/

theorem toNat_aluShl (a n : Word) : (aluShl a n).toNat = a.toNat * 2 ^ n.toNat % 2 ^ 32 := by
  rw [aluShl_eq, BitVec.toNat_shiftLeft, Nat.shiftLeft_eq]

theorem toNat_aluShrL (a n : Word) : (aluShrL a n).toNat = a.toNat / 2 ^ n.toNat := by
  rw [aluShrL_eq, BitVec.toNat_ushiftRight, Nat.shiftRight_eq_div_pow]

theorem toInt_aluShrA (a n : Word) : (aluShrA a n).toInt = a.toInt / 2 ^ n.toNat := by
  rw [aluShrA_eq, BitVec.toInt_sshiftRight, Int.shiftRight_eq_div_pow, Nat.cast_pow, Nat.cast_ofNat]

theorem aluShl_of_le {n : Word} (a : Word) (h : 32 ≤ n.toNat) : aluShl a n = 0#32 := if_neg h.not_gt

theorem aluShrL_of_le {n : Word} (a : Word) (h : 32 ≤ n.toNat) : aluShrL a n = 0#32 := if_neg h.not_gt

theorem aluShrA_of_le {n : Word} (a : Word) (h : 32 ≤ n.toNat) :
    aluShrA a n = if a.getLsbD 31 then 0xFFFFFFFF#32 else 0#32 := by
  rw [aluShrA, if_neg h.not_gt, BitVec.msb_eq_getLsbD_last]

theorem aluShl_zero (a : Word) : aluShl a 0#32 = a := by
  rw [aluShl_eq, BitVec.toNat_zero, BitVec.shiftLeft_zero]

theorem aluShrL_zero (a : Word) : aluShrL a 0#32 = a := by
  rw [aluShrL_eq, BitVec.toNat_zero, BitVec.ushiftRight_zero]

theorem aluShrA_zero (a : Word) : aluShrA a 0#32 = a := by
  rw [aluShrA_eq, BitVec.toNat_zero, BitVec.sshiftRight_zero]

/-! ## The logic operations (R169) -/

theorem aluAnd_eq (a b : Word) : aluAnd a b = a &&& b := rfl

theorem aluOr_eq (a b : Word) : aluOr a b = a ||| b := rfl

theorem aluXor_eq (a b : Word) : aluXor a b = a ^^^ b := rfl

/-! ## The statements -/

/-- Settles O16: the words by the opcode map, the stage operations by each row's operation, which is the word shift; the
destination is the first source as well (R177). -/
theorem shiftRules : Obligations.ShiftRules := by
  refine ⟨⟨wordsA2R_of_decodeAlu ?_, fun _ _ => binary_computes aluShl_eq fun _ => rfl⟩,
    ⟨wordsA2I_of_decodeAlu ?_, fun _ _ => binary_computes aluShl_eq fun _ => rfl⟩,
    ⟨wordsA2R_of_decodeAlu ?_, fun _ _ => binary_computes aluShrA_eq fun _ => rfl⟩,
    ⟨wordsA2I_of_decodeAlu ?_, fun _ _ => binary_computes aluShrA_eq fun _ => rfl⟩,
    ⟨wordsA2R_of_decodeAlu ?_, fun _ _ => binary_computes aluShl_eq fun _ => rfl⟩,
    ⟨wordsA2I_of_decodeAlu ?_, fun _ _ => binary_computes aluShl_eq fun _ => rfl⟩,
    ⟨wordsA2R_of_decodeAlu ?_, fun _ _ => binary_computes aluShrL_eq fun _ => rfl⟩,
    ⟨wordsA2I_of_decodeAlu ?_, fun _ _ => binary_computes aluShrL_eq fun _ => rfl⟩⟩
  all_goals
    intro w hop
    simp only [decodeAlu, hop]

/-- Settles O17: the table by the operations' values as numbers; that ASL and LSL execute alike, by their rules (O16). -/
theorem shiftOperationsAreTheTable : Obligations.ShiftOperationsAreTheTable := by
  refine ⟨fun a n => ⟨fun _ => ?_, fun hle => ?_, ?_⟩, fun rd rs s r a n hs hr ha hn => ?_⟩
  · exact ⟨toNat_aluShl a n, toNat_aluShrL a n, toInt_aluShrA a n⟩
  · exact ⟨aluShl_of_le a hle, aluShrL_of_le a hle, aluShrA_of_le a hle⟩
  · rintro rfl
    exact ⟨aluShl_zero a, aluShrL_zero a, aluShrA_zero a⟩
  · obtain ⟨⟨-, hasl⟩, -, -, -, ⟨-, hlsl⟩, -⟩ := shiftRules
    obtain ⟨-, hexecAsl, -, -⟩ := hasl rd rs
    obtain ⟨-, hexecLsl, -, -⟩ := hlsl rd rs
    rw [aluShl_eq]
    exact ⟨hexecAsl s r a n hs hr ha hn trivial, hexecLsl s r a n hs hr ha hn trivial⟩

/-- Settles O18: as O16, with each row's bitwise operation; all immediate rows zero-extend `imm9` (R97). -/
theorem logicRules : Obligations.LogicRules := by
  refine ⟨⟨wordsA3R_of_decodeAlu ?_, fun _ _ _ => binary_computes aluAnd_eq fun _ => rfl⟩,
    ⟨wordsA3I_of_decodeAlu ?_, fun _ _ _ => binary_computes aluAnd_eq fun _ => rfl⟩,
    ⟨wordsA3R_of_decodeAlu ?_, fun _ _ _ => binary_computes aluOr_eq fun _ => rfl⟩,
    ⟨wordsA3I_of_decodeAlu ?_, fun _ _ _ => binary_computes aluOr_eq fun _ => rfl⟩,
    ⟨wordsA3R_of_decodeAlu ?_, fun _ _ _ => binary_computes aluXor_eq fun _ => rfl⟩,
    ⟨wordsA3I_of_decodeAlu ?_, fun _ _ _ => binary_computes aluXor_eq fun _ => rfl⟩⟩
  all_goals
    intro w hop
    simp only [decodeAlu, hop]

end Sys2Proof.Machine
end

section
/-!
PROOFS. Statements O21, O22 and O43: the jumps (43_jump.md R180 to R186), their words (R102), their four stage operations,
and what a taken one makes of the step that writes it back. A row of the table `opsOf` that is a jump's is read once for all
four (`jump_stages`); in the step, the write-back puts the target in x[28] before the fetch of the same step reads there
(R185), and the later actions only add 1 to x[28] (`completedStep_regs`).
-/

namespace Sys2Proof

/-! ## Words of the Control type (R90, R102) -/

theorem decodeControl_jmp {w : Word} (h : opcode3 w = 0#3) :
    decodeControl w = .ok (.jmp (memField1 w) (condField w)) := by
  simp only [decodeControl, h]

theorem decodeControl_jmpi {w : Word} (h : opcode3 w = 1#3) :
    decodeControl w = .ok (.jmpi (imm22Field w) (condField w)) := by
  simp only [decodeControl, h]

theorem decodeControl_jmps {w : Word} (h : opcode3 w = 2#3) :
    decodeControl w = .ok (.jmps (memField1 w) (condField w)) := by
  simp only [decodeControl, h]

theorem decodeControl_jmpsi {w : Word} (h : opcode3 w = 3#3) :
    decodeControl w = .ok (.jmpsi (imm22Field w) (condField w)) := by
  simp only [decodeControl, h]

end Sys2Proof

namespace Sys2Proof.Machine

/-- The words of a Control opcode are those whose pattern has it above the type 2 (R91, R102). -/
theorem wordsM_of_decodeControl (op : BitVec 3) {i : Word → Instr}
    (h : ∀ {w : Word}, opcode3 w = op → decodeControl w = .ok (i w)) : WordsM (op ++ 2#2) i := by
  intro w hw
  obtain ⟨hop, htype⟩ := opcode3_itype_of_pattern hw
  exact (decodeWord_control htype).trans (h hop)

/-! ## A jump's row of the table (R180, R185) -/

theorem condTaken_iff_fires {r : InFlight} {x : Regs} : condTaken r.cond (readReg x Reg.status) = true ↔ Fires r x := by
  rw [condTaken_eq, Bool.or_eq_true, beq_iff_eq, beq_iff_eq, Fires]

/-- The stage operations of a jump whose decode is `fill` and which, taken, goes to its target by `go`. -/
theorem jump_stages {i : Instr} {fill : Regs → InFlight → InFlight} {go : Regs → Word → Regs}
    (h : ∀ c, opsOf i c = ⟨fill, executeNothing, accessNothing, writeJump condTaken go⟩) :
    JumpRule i fill (fun t x => go x t) := by
  obtain ⟨hdecode, hexecute, haccess⟩ := writeBackOnly_stages h
  refine ⟨hdecode, hexecute, haccess, fun s r t hs hr ht => ⟨fun hfires => ?_, fun hfires => ?_⟩⟩
  · have hwrite : (opsOf i s.config).writeBack r s.regs = .next (go s.regs t) := by
      rw [h]
      exact writeJump_taken ht (condTaken_iff_fires.2 hfires)
    exact exec_writeBack hs hr hwrite
  · have hwrite : (opsOf i s.config).writeBack r s.regs = .next s.regs := by
      rw [h]
      exact writeJump_notTaken ht (Bool.eq_false_iff.2 fun htaken => hfires (condTaken_iff_fires.1 htaken))
    exact exec_writeBack hs hr hwrite

/-- Settles O21: the words by the opcode map, the stage operations by the jump's row of the table. -/
theorem jumpRules : Obligations.JumpRules :=
  ⟨wordsM_of_decodeControl 0#3 decodeControl_jmp, wordsM_of_decodeControl 1#3 decodeControl_jmpi,
    fun _ _ => jump_stages fun _ => rfl, fun _ _ => jump_stages fun _ => rfl⟩

/-- Settles O22: as O21; a taken subroutine jump's row links before it jumps. -/
theorem subroutineJumpRules : Obligations.SubroutineJumpRules :=
  ⟨wordsM_of_decodeControl 2#3 decodeControl_jmps, wordsM_of_decodeControl 3#3 decodeControl_jmpsi,
    fun _ _ => jump_stages fun _ => rfl, fun _ _ => jump_stages fun _ => rfl⟩

/-! ## A taken jump in the step -/

/-- x[31] after the write-back of a taken jump (R181 to R184). -/
def linkAfterJump (i : Instr) (x : Regs) : Word :=
  match i with
  | .jmps _ _ => readReg x Reg.pc + 1#32
  | .jmpsi _ _ => readReg x Reg.pc + 1#32
  | _ => readReg x Reg.link

/-- The write-back of a taken jump leaves the target in x[28] and the link in x[31]. -/
theorem opsOf_writeBack_jump {i : Instr} {r : InFlight} {x : Regs} {t : Word} (c : Config) (hi : fieldsSet i = .jump)
    (ht : r.addr = some t) (hfires : Fires r x) :
    ∃ y, (opsOf i c).writeBack r x = .next y ∧ readReg y Reg.pc = t ∧ readReg y Reg.link = linkAfterJump i x := by
  have htaken := condTaken_iff_fires.2 hfires
  cases i with
  | jmp | jmpi =>
    exact ⟨_, writeJump_taken ht htaken, readReg_writeReg_same _ _ _, readReg_writeReg_other x t (by decide)⟩
  | jmps | jmpsi =>
    exact ⟨_, writeJump_taken ht htaken, readReg_linkAndJump x t Reg.pc, readReg_linkAndJump x t Reg.link⟩
  | _ => cases hi

/-- The write-back action of a filled `slot.M`, from what the instruction's write-back operation answers (R202). -/
theorem actWriteBack_of_opsOf {s : State} {r : InFlight} {y : Regs} (hr : s.slotM = some r)
    (hw : (opsOf r.op s.config).writeBack r s.regs = .next y) :
    actWriteBack s = .next { s with slotW := some r, regs := y, stageOp := .writeBack } := by
  rw [actWriteBack_filled hr]
  exact exec_writeBack (s := { s with stageOp := .writeBack }) rfl hr hw

theorem actFetch_regs {s t : State} (h : actFetch s = .next t) : t.regs = s.regs := by
  obtain ⟨n, w, ch, -, heq⟩ := actFetch_next s
  rw [heq] at h
  cases h
  rfl

/-- The registers of a completed step are those of its write-back, with 1 added to x[28] (R202 to R207). -/
theorem completedStep_regs {s s1 t : State} (ha : s.active = true) (h : step s = .next t) (ht : t.runState ≠ .faulted)
    (hwb : actWriteBack s = .next s1) : t.regs = writeReg s1.regs Reg.pc (s1.reg Reg.pc + 1#32) := by
  cases stepRun_of_step ha h with
  | executeFaults _ _ _ hf => exact absurd hf ht
  | decodeFaults _ _ _ _ _ hf => exact absurd hf ht
  | @completed _ _ _ _ s5 h1 h2 h3 hs3 h4 hs4 h5 done =>
    cases hwb.symm.trans h1
    obtain ⟨-, -, -, -, regs2⟩ := actAccessMemory_moves h2
    obtain ⟨-, -, -, -, regs3⟩ := actExecute_moves h3 hs3
    obtain ⟨-, -, -, -, regs4⟩ := actDecode_moves h4 hs4
    have regs5 : s5.regs = s1.regs := (actFetch_regs h5).trans (regs4.trans (regs3.trans regs2))
    rw [done, actReturn_regs, actIncrement_regs, State.reg, State.reg, regs5]

/-- Two slots that hold the same word and instruction hold the same word. -/
theorem map_word_of_map_identity {p q : Option InFlight} (h : p.map InFlight.identity = q.map InFlight.identity) :
    p.map InFlight.word = q.map InFlight.word := by
  have hword := congrArg (Option.map Prod.fst) h
  rw [Option.map_map, Option.map_map] at hword
  exact hword

/-- Settles O43: the write-back leaves target and link, the fetch and the increment of the same step find them, and the
slots behind the jump move on as in every completed step. -/
theorem takenJumpFetchesItsTargetAndSquashesNothing : Obligations.TakenJumpFetchesItsTargetAndSquashesNothing := by
  intro s t r target hinv ha hr hjump haddr hfires h ht
  obtain ⟨y, hwrite, hpc, hlink⟩ := opsOf_writeBack_jump s.config hjump haddr hfires
  have hwb := actWriteBack_of_opsOf hr hwrite
  have hregs : t.regs = writeReg y Reg.pc (readReg y Reg.pc + 1#32) := completedStep_regs ha h ht hwb
  obtain ⟨-, hslotM, hslotX, hslotD, -, hfetch⟩ := instructionsMoveForwardOneStage s t _ hinv ha h ht hwb
  refine ⟨?_, ?_, ?_, map_word_of_map_identity hslotM, map_word_of_map_identity hslotX, hslotD⟩
  · rw [State.reg, hregs, readReg_writeReg_same, hpc]
  · rw [← hpc]
    exact hfetch
  · rw [State.reg, hregs, readReg_writeReg_other _ _ (by decide), hlink]
    rfl

end Sys2Proof.Machine
end

section
/-!
PROOFS. Statements O23 and O24: the software interrupt and the no-op (44_interrupt_nop.md R190 to R193, 60_exceptions.md
R246), their words (R100, R102) and their four stage operations. SIH, RFI and NOP only write back; INT is a store of its
code, at the instance's INT_CODE_ADDR, that also writes back.
-/

namespace Sys2Proof

/-! ## The words (R90, R100, R102) -/

theorem decodeControl_sih {w : Word} (h : opcode3 w = 4#3) : decodeControl w = .ok (.sih (memField1 w)) := by
  simp only [decodeControl, h]

theorem decodeControl_int {w : Word} (h : opcode3 w = 5#3) : decodeControl w = .ok (.int (imm22Field w)) := by
  simp only [decodeControl, h]

theorem decodeControl_rfi {w : Word} (h : opcode3 w = 6#3) : decodeControl w = .ok .rfi := by
  simp only [decodeControl, h]

theorem decodeAlu_nop {w : Word} (h : opcode6 w = 34#6) : decodeAlu w = .ok .nop := by
  simp only [decodeAlu, h]

end Sys2Proof

namespace Sys2Proof.Machine

/-! ## The software interrupt (R190 to R192, R246) -/

/-- INT's access-memory is a write of the captured code at the instance's INT_CODE_ADDR (R191). -/
theorem accessRecordCode_eq_accessWrite {c : Config} {r : InFlight} {ch : Chain} {v : Word} (hv : r.a = some v) :
    accessRecordCode c r ch = accessWrite c r ch c.intCodeAddr v := by
  rw [accessRecordCode, hv, needField_some]

/-- SIH's write-back puts the captured address in x[27], and writes no other register (R190). -/
theorem exec_sih_writeBack {rs : Reg} {s : State} {r : InFlight} {v : Word} (hs : s.stageOp = .writeBack)
    (hr : s.slotM = some r) (hv : r.a = some v) :
    exec (.sih rs) s = .next { s.setReg Reg.intHandler v with slotW := some r } :=
  exec_writeBack hs hr (writeHandler_set hv)

/-- The stage operations of INT: a store of the code, and the two register writes of entry (`enterInterrupt_eq`, R191). -/
theorem int_stages (imm : BitVec 22) :
    DecodesTo (.int imm) (fun _ r => { r with a := some (imm.zeroExtend 32) }) ∧ ExecuteMoves (.int imm) ∧
      AccessStores (.int imm) (fun s _ => some s.config.intCodeAddr) ∧
      WritesRegs (.int imm) (fun _ => True) (fun _ x =>
        writeReg (writeReg x Reg.intLink (readReg x Reg.pc + 1#32)) Reg.pc (readReg x Reg.intHandler)) := by
  refine ⟨decodesTo_of_opsOf fun _ => rfl, executeMoves_of_opsOf fun _ => rfl,
    accessStores_of_opsOf fun htarget hv => ?_, writesRegs_of_opsOf fun _ => ?_⟩
  · cases htarget
    exact accessRecordCode_eq_accessWrite hv
  · exact congrArg Host.Outcome.next (enterInterrupt_eq _)

/-! ## The statements -/

/-- Settles O23: the words by the opcode map, the stage operations by each instruction's row of the table. -/
theorem interruptRules : Obligations.InterruptRules := by
  refine ⟨wordsM_of_decodeControl 4#3 decodeControl_sih, wordsM_of_decodeControl 5#3 decodeControl_int,
    wordsM_of_decodeControl 6#3 decodeControl_rfi, fun rs => ?_, int_stages, ?_⟩
  · obtain ⟨hdecode, hexecute, haccess⟩ := writeBackOnly_stages (i := .sih rs) fun _ => rfl
    exact ⟨hdecode, hexecute, haccess, fun _ _ _ => exec_sih_writeBack⟩
  · obtain ⟨hdecode, hexecute, haccess⟩ := writeBackOnly_stages (i := .rfi) fun _ => rfl
    exact ⟨hdecode, hexecute, haccess, writesRegs_of_opsOf fun _ => rfl⟩

/-- Settles O24: as O23, with the ALU's opcode map; NOP's row writes no register back. -/
theorem nopRule : Obligations.NopRule := by
  obtain ⟨hdecode, hexecute, haccess⟩ := writeBackOnly_stages (i := .nop) fun _ => rfl
  exact ⟨fun _ htype hop => (decodeWord_alu htype).trans (decodeAlu_nop hop), hdecode, hexecute, haccess,
    writesRegs_of_opsOf fun _ => rfl⟩

end Sys2Proof.Machine
end

section
/-!
PROOFS. Statements O7 and O37: the frame of one stage operation, and what an aborted step leaves (49_pipeline_control.md
R202 to R205, R212, R213). The one failure inside an operation is the divide's by 0, and it stays in `slot.D`.
-/

namespace Sys2Proof.Machine

/-! ## One stage operation (R202 to R205) -/

/-- Only a divide's execute fails (R244). -/
theorem divisor_isSome_of_execute_fault {i : Instr} {c : Config} {r : InFlight} {f : Fault} (x : Regs)
    (h : (opsOf i c).execute r = .fault f) : (divisor i x).isSome = true := by
  cases i with
  | divu | divui | divs | divsi => rfl
  | cmpu | cmps | not | mov | nop | ldr | ldri | str | stri | jmp | jmpi | jmps | jmpsi | sih | int | rfi => cases h
  | _ => exact absurd h executeBinary_ne_fault

/-- Settles O7: each of the four stage operations rewrites its own slot, and write-back and access-memory their own part
of the state besides; the other fields are the old ones. -/
theorem onlyWriteBackWritesRegisters : Obligations.OnlyWriteBackWritesRegisters := by
  intro i s t h
  rw [exec_eq_runStage] at h
  rcases runStage_cases h with
    ⟨hop, w, -, rfl⟩ | ⟨hop, r, hr, ⟨r', -, rfl⟩ | ⟨f, hf, rfl⟩⟩ | ⟨hop, r, -, ⟨acc, -, rfl⟩ | ⟨f, hf, -⟩⟩ |
    ⟨hop, r, hr, ⟨x, -, rfl⟩ | ⟨f, hf, -⟩⟩
  · exact .inr (by simp [hop])
  · exact .inr (by simp [hop])
  · obtain ⟨hb, rfl⟩ := opsOf_execute_fault hf
    exact .inl ⟨hop, divisor_isSome_of_execute_fault s.regs hf, r, hr, hb, rfl⟩
  · exact .inr (by simp [hop])
  · exact absurd hf opsOf_accessMemory_ne_fault
  · exact .inr (by simp [hop, hr])
  · exact absurd hf opsOf_writeBack_ne_fault

/-! ## The two faults that abort a step (R212, R213, R242) -/

/-- Whether an instruction divides does not depend on the registers. -/
theorem divisor_isSome_congr (i : Instr) (x y : Regs) : (divisor i x).isSome = (divisor i y).isSome := by
  cases i <;> rfl

/-- An execute action that fails does so on a divide by 0 in `slot.D`, and changes nothing else (R213, R244). -/
theorem actExecute_faulted {s t : State} (h : actExecute s = .next t) (ht : t.runState = .faulted)
    (hs : s.runState ≠ .faulted) :
    ∃ r, s.slotD = some r ∧ (divisor r.op s.regs).isSome = true ∧ r.b = some 0#32 ∧
      t = s.abort (.arithmeticError r.word) := by
  cases hd : s.slotD with
  | none =>
    rw [actExecute_empty hd] at h
    cases h
    exact absurd ht hs
  | some r =>
    rw [actExecute_filled hd] at h
    rcases onlyWriteBackWritesRegisters _ _ _ h with
      ⟨-, hdiv, r', hr', hb, rfl⟩ | ⟨-, -, -, -, -, -, hrun, -⟩
    · cases hd.symm.trans hr'
      exact ⟨r, rfl, hdiv, hb, rfl⟩
    · exact absurd (hrun.symm.trans ht) hs

/-- A decode action that fails does so on an illegal word in `slot.F`, and changes nothing else (R104, R213). -/
theorem actDecode_faulted {s t : State} (h : actDecode s = .next t) (ht : t.runState = .faulted)
    (hs : s.runState ≠ .faulted) :
    ∃ w e, s.slotF = some w ∧ decodeWord w = .error e ∧ t = s.abort (.decodeError w) := by
  rcases actDecode_next h with ⟨-, rfl⟩ | ⟨w, hw, ⟨i, -, rfl⟩ | ⟨⟨e, he⟩, rfl⟩⟩
  · exact absurd ht hs
  · exact absurd ht hs
  · exact ⟨w, e, hw, he, rfl⟩

/-- Settles O37: the two runs of a step that end FAULTED, with the slots traced back to the state before the step. -/
theorem abortKeepsWhatCompletedActionsDid : Obligations.AbortKeepsWhatCompletedActionsDid := by
  refine ⟨fun s t ha h ht => ?_, fun _ _ => rfl⟩
  have hs := State.runState_ne_faulted ha
  cases stepRun_of_step ha h with
  | completed _ _ _ _ _ _ _ done =>
    subst done
    rw [actReturn_runState] at ht
    split at ht <;> cases ht
  | @executeFaults s1 s2 h1 h2 h3 hf =>
    have hs2 : s2.runState ≠ .faulted := actAccessMemory_runState h2 ▸ actWriteBack_runState h1 ▸ hs
    obtain ⟨r, hr, hdiv, hb, rfl⟩ := actExecute_faulted h3 hf hs2
    obtain ⟨x, rfl⟩ := actWriteBack_frame h1
    obtain ⟨-, -, hD, -, -⟩ := actAccessMemory_moves h2
    exact ⟨_, s2, h1, h2, .inl ⟨r, hD.symm.trans hr, (divisor_isSome_congr ..).trans hdiv, hb, rfl⟩⟩
  | @decodeFaults s1 s2 s3 h1 h2 h3 hs3 h4 hf =>
    obtain ⟨w, e, hw, he, rfl⟩ := actDecode_faulted h4 hf hs3
    obtain ⟨x, rfl⟩ := actWriteBack_frame h1
    obtain ⟨-, hF2, -, -, -⟩ := actAccessMemory_moves h2
    obtain ⟨-, hF3, -, -, -⟩ := actExecute_moves h3 hs3
    exact ⟨_, s2, h1, h2, .inr ⟨s3, w, e, h3, hs3, (hF3.trans hF2).symm.trans hw, he, rfl⟩⟩

end Sys2Proof.Machine
end

section
/-!
PROOFS. Statements O36, O57, O35, O40 and O33: how a step ends (49_pipeline_control.md R207, R208, R211, R215, R220),
the cycles it counts, and the instructions it runs (R201).
-/

namespace Sys2Proof.Machine

/-! ## The outputs through a step (R211, R220) -/

/-- The outputs that only the return of a step writes: `running` and `step_count`. -/
def State.returned (s : State) : Bool × Count := (s.running, s.stepCount)

theorem actWriteBack_returned {s t : State} (h : actWriteBack s = .next t) : t.returned = s.returned := by
  obtain ⟨x, rfl⟩ := actWriteBack_frame h
  rfl

theorem actAccessMemory_returned {s t : State} (h : actAccessMemory s = .next t) : t.returned = s.returned := by
  rcases actAccessMemory_next h with ⟨-, rfl⟩ | ⟨r, acc, -, -, rfl⟩ <;> rfl

theorem actExecute_returned {s t : State} (h : actExecute s = .next t) : t.returned = s.returned := by
  rcases actExecute_next h with ⟨-, rfl⟩ | ⟨r, -, ⟨r', -, rfl⟩ | ⟨-, rfl⟩⟩ <;> rfl

theorem actDecode_returned {s t : State} (h : actDecode s = .next t) : t.returned = s.returned := by
  rcases actDecode_next h with ⟨-, rfl⟩ | ⟨w, -, ⟨i, -, rfl⟩ | ⟨-, rfl⟩⟩ <;> rfl

theorem actFetch_returned {s t : State} (h : actFetch s = .next t) : t.returned = s.returned := by
  obtain ⟨n, w, ch, -, heq⟩ := actFetch_next s
  rw [heq] at h
  cases h
  rfl

/-- A requested step ends with the return, or with a recorded fault and the outputs of the step before it. -/
theorem step_ends {s t : State} (ha : s.active = true) (h : step s = .next t) :
    (∃ u, t = actReturn u ∧ u.returned = s.returned) ∨
      (t.runState = .faulted ∧ (∃ f, t.faultRecord = some f) ∧ t.returned = s.returned) := by
  have hs := State.runState_ne_faulted ha
  cases stepRun_of_step ha h with
  | @completed _ _ _ _ s5 h1 h2 h3 _ h4 _ h5 done =>
    refine .inl ⟨actIncrement s5, done, (?_ : s5.returned = s.returned)⟩
    rw [actFetch_returned h5, actDecode_returned h4, actExecute_returned h3, actAccessMemory_returned h2,
      actWriteBack_returned h1]
  | executeFaults h1 h2 h3 hf =>
    refine .inr ⟨hf, ?_, ?_⟩
    · obtain ⟨r, -, -, -, rfl⟩ :=
        actExecute_faulted h3 hf (actAccessMemory_runState h2 ▸ actWriteBack_runState h1 ▸ hs)
      exact ⟨_, rfl⟩
    · rw [actExecute_returned h3, actAccessMemory_returned h2, actWriteBack_returned h1]
  | decodeFaults h1 h2 h3 hs3 h4 hf =>
    refine .inr ⟨hf, ?_, ?_⟩
    · obtain ⟨w, e, -, -, rfl⟩ := actDecode_faulted h4 hf hs3
      exact ⟨_, rfl⟩
    · rw [actDecode_returned h4, actExecute_returned h3, actAccessMemory_returned h2, actWriteBack_returned h1]

/-- Settles O36: a step ends with its return or with a fault, and each host action asks for IDLE and keeps it. -/
theorem runStateMachine : Obligations.RunStateMachine := by
  refine ⟨fun s t ha h => ?_, fun s hs => hs.elim step_halted step_faulted, fun s => ⟨rfl, rfl⟩,
    fun s t input left e a v r h => ?_⟩
  · rcases step_ends ha h with ⟨u, rfl, -⟩ | ⟨hf, hrecord, -⟩
    · cases hu : u.anySlot with
      | true => exact .inl ⟨if_pos hu, hu, hu⟩
      | false => exact .inr (.inl ⟨if_neg (Bool.eq_false_iff.1 hu), hu, hu⟩)
    · exact .inr (.inr ⟨hf, hrecord⟩)
  · rcases h with h | h | h
    · obtain ⟨hi, -, -, ⟨-, hx⟩ | ⟨-, hx⟩⟩ := hostLoadImage_cases h <;> cases hx
      · obtain ⟨d, hd, -⟩ := pokeAll_frame (left.filter fun e => decide (e.1.toNat < input.bytes.length / 4)) s
        exact ⟨hi, by rw [State.partlyLoaded, hd]; exact hi⟩
      · obtain ⟨d, hd, -⟩ := loadWords_frame input.bytes 0 s
        exact ⟨hi, by rw [hd]; exact hi⟩
    · obtain ⟨hi, rfl⟩ := hostLoadWord_next h
      exact ⟨hi, hi⟩
    · obtain ⟨hi, hx⟩ := inIdle_next h
      cases hx
      exact ⟨hi, hi⟩

/-- Settles O57: what the return of a step writes, or what a fault leaves, as the ports show it. -/
theorem portsShowTheRun : Obligations.PortsShowTheRun := by
  refine ⟨fun s t ha h => ?_, fun s => ⟨decide_eq_true_iff, decide_eq_true_iff, rfl, rfl⟩,
    fun c => ⟨rfl, rfl, rfl, rfl, rfl⟩⟩
  rcases step_ends ha h with ⟨u, rfl, hu⟩ | ⟨hf, -, ht⟩
  · obtain ⟨-, hcount⟩ := Prod.mk.inj hu
    constructor
    · intro _
      cases hslot : u.anySlot <;> simp [State.ports, hslot, hcount]
    · intro hf
      rw [actReturn_runState] at hf
      split at hf <;> cases hf
  · obtain ⟨hrunning, hcount⟩ := Prod.mk.inj ht
    exact ⟨fun hne => absurd hf hne, fun _ => by simp [State.ports, hf, hrunning, hcount]⟩

/-! ## The program counter (R207) -/

/-- Settles O35: after the write-back the increment is the only action that writes a register. -/
theorem programCounterAdvances : Obligations.ProgramCounterAdvances := by
  intro s t s1 ha h ht hwb
  have hregs := completedStep_regs ha h ht hwb
  refine ⟨?_, fun q hq => ?_, fun hm q => ?_⟩
  · rw [State.reg, hregs, readReg_writeReg_same]
  · rw [State.reg, hregs, readReg_writeReg_other _ _ hq, State.reg]
  · rw [actWriteBack_empty hm] at hwb
    cases hwb
    rfl

/-! ## Cycles (R36, R211) -/

/-- Between access-memory and fetch a completed step leaves what the fetch reads, and the cycle count. -/
theorem actExecute_actDecode_frame {s t u : State} (h3 : actExecute s = .next t) (ht : t.runState ≠ .faulted)
    (h4 : actDecode t = .next u) (hu : u.runState ≠ .faulted) :
    u.chain = s.chain ∧ u.cycleCount = s.cycleCount ∧ u.regs = s.regs ∧ u.config = s.config := by
  have hexec : t.chain = s.chain ∧ t.cycleCount = s.cycleCount := by
    rcases actExecute_next h3 with ⟨-, rfl⟩ | ⟨r, -, ⟨r', -, rfl⟩ | ⟨-, rfl⟩⟩ <;> exact ⟨rfl, rfl⟩
  have hdec : u.chain = t.chain ∧ u.cycleCount = t.cycleCount := by
    rcases actDecode_next h4 with ⟨-, rfl⟩ | ⟨w, -, ⟨i, -, rfl⟩ | ⟨-, rfl⟩⟩ <;> exact ⟨rfl, rfl⟩
  obtain ⟨-, -, -, -, regs3⟩ := actExecute_moves h3 ht
  obtain ⟨-, -, -, -, regs4⟩ := actDecode_moves h4 hu
  exact ⟨hdec.1.trans hexec.1, hdec.2.trans hexec.2, regs4.trans regs3,
    (actDecode_config h4).trans (actExecute_config h3)⟩

/-- Settles O40: access-memory adds the cycles of its own operation, by instruction, and the fetch adds those of its
read; the return counts the step. -/
theorem cyclesAreThoseOfFetchAndAccess : Obligations.CyclesAreThoseOfFetchAndAccess := by
  intro s t s1 s2 ha h ht hwb hacc
  refine ⟨?_, ?_, ?_⟩
  · cases stepRun_of_step ha h with
    | executeFaults _ _ _ hf => exact absurd hf ht
    | decodeFaults _ _ _ _ _ hf => exact absurd hf ht
    | @completed _ _ _ s4 _ h1 h2 h3 hs3 h4 hs4 h5 done =>
      cases hwb.symm.trans h1
      cases hacc.symm.trans h2
      obtain ⟨hchain, hcycles, hregs, hconfig⟩ := actExecute_actDecode_frame h3 hs3 h4 hs4
      obtain ⟨-, -, -, -, regs2⟩ := actAccessMemory_moves h2
      obtain ⟨n, w, ch, hread, heq⟩ := actFetch_next s4
      cases heq.symm.trans h5
      rw [hchain, hconfig, actAccessMemory_config h2, actWriteBack_config h1, State.reg, hregs, regs2] at hread
      exact ⟨n, w, ch, hread, by rw [done, actReturn_cycleCount, actIncrement_cycleCount, ← hcycles]⟩
  · obtain ⟨x, rfl⟩ := actWriteBack_frame hwb
    rcases actAccessMemory_next hacc with ⟨hx, rfl⟩ | ⟨r, acc, hx, hop, rfl⟩
    · rw [show s.slotX = none from hx]
    · rw [show s.slotX = some r from hx]
      cases hi : r.op with
      | ldr | ldri =>
        rw [hi] at hop
        obtain ⟨a, n, v, ch, haddr, hread, rfl⟩ := accessLoad_next hop
        simp only [hi]
        exact ⟨a, n, v, haddr, congrArg Prod.fst hread, rfl⟩
      | str | stri =>
        rw [hi] at hop
        obtain ⟨a, v, n, ch, haddr, hv, hwrite, rfl⟩ := accessStore_next hop
        simp only [hi]
        exact ⟨a, v, n, haddr, hv, congrArg Prod.fst hwrite, rfl⟩
      | int =>
        rw [hi] at hop
        obtain ⟨v, n, ch, hv, hwrite, rfl⟩ := accessRecordCode_next hop
        simp only [hi]
        exact ⟨_, v, n, rfl, hv, congrArg Prod.fst hwrite, rfl⟩
      | _ =>
        rw [hi] at hop
        cases hop
        simp only [hi]
        exact BitVec.add_zero _
  · rcases step_ends ha h with ⟨u, rfl, hu⟩ | ⟨hf, -⟩
    · exact congrArg (· + 1#64) (Prod.mk.inj hu).2
    · exact absurd hf ht

/-! ## The instructions of a step (R201) -/

/-- Two ways to go on from an action are one if they agree where it can lead. -/
theorem perform_congr {act next next' : State → Host.Outcome State Fault Refusal} {s : State}
    (h : ∀ t, act s = .next t → t.runState ≠ .faulted → next t = next' t) : perform act next s = perform act next' s := by
  unfold perform
  split
  · rename_i t ht
    split
    · rfl
    · rename_i hf
      exact h t ht hf
  · rfl
  · rfl

/-- Settles O33: no action before decode changes `slot.F`, so that decode finds the word that the step started with. -/
theorem stepRunsTheDecodedInstruction : Obligations.StepRunsTheDecodedInstruction := by
  intro s w i ha hw hi
  refine ⟨?_, fun r => actWriteBack_filled, fun r => actAccessMemory_filled, fun r => actExecute_filled,
    actWriteBack_empty, actAccessMemory_empty, actExecute_empty⟩
  rw [step_active ha]
  refine perform_congr fun s1 h1 _ => perform_congr fun s2 h2 _ => perform_congr fun s3 h3 hs3 => ?_
  obtain ⟨x, rfl⟩ := actWriteBack_frame h1
  obtain ⟨-, hF2, -, -, -⟩ := actAccessMemory_moves h2
  obtain ⟨-, hF3, -, -, -⟩ := actExecute_moves h3 hs3
  have hdecode := actDecode_legal ((hF3.trans hF2).trans hw) hi
  simp only [perform, hdecode]

end Sys2Proof.Machine
end

section
/-!
PROOFS. Statements O51, O52 and O56: the host's presets, the fault ports and the clock edge (49_pipeline_control.md
section 5, R220, R222).
-/

namespace Sys2Proof.Machine

/-! ## Presets and images (R76, R222, U17) -/

theorem ImageInput.wellFormed_of {input : ImageInput} (hr : input.unreadable = false) (hl : input.bytes.length % 4 = 0) :
    input.wellFormed = true := by
  simp [ImageInput.wellFormed, imageWellFormed, hr, hl]

/-- An image that is taken without an error writes DRAM only (R76). -/
theorem hostLoadImage_taken {s : State} {input : ImageInput} (left : List (Word × Word)) (hi : s.runState = .idle)
    (hf : s.loadFailed = false) (hv : s.allLinesInvalid = true) (hw : input.wellFormed = true)
    (hn : input.bytes.length ≤ 4 * 2 ^ 32) :
    ∃ d, hostLoadImage input left s =
      .next { state := { s with chain := { s.chain with dram := d } }, error := none } := by
  obtain ⟨d, hd, -⟩ := loadWords_frame input.bytes 0 s
  refine ⟨d, ?_⟩
  rw [hostLoadImage, whenLoadable_ready _ hi hf hv, hw, if_neg (by decide), if_neg hn.not_gt, hd]

theorem hostLoadImage_overValidLine {s : State} (input : ImageInput) (left : List (Word × Word))
    (hi : s.runState = .idle) (hf : s.loadFailed = false) (hv : s.allLinesInvalid = false) :
    hostLoadImage input left s = .refused .loadOverValidLine := by
  rw [hostLoadImage, whenLoadable, inIdle_idle _ hi, hf, hv]
  rfl

/-- Settles O51: in IDLE each action is its own write or names its refusal; outside IDLE there is one refusal for all. -/
theorem hostPresetsInIdleOnly : Obligations.HostPresetsInIdleOnly := by
  intro s r a v input left
  refine ⟨fun hi => ⟨inIdle_idle _ hi, inIdle_idle _ hi, fun hf hv hr hl hn => ?_, fun hf => ?_, fun hf hv => ?_⟩,
    fun hi => ⟨inIdle_outside _ hi, inIdle_outside _ hi, inIdle_outside _ hi⟩⟩
  · exact hostLoadImage_taken left hi hf hv (ImageInput.wellFormed_of hr hl) hn
  · exact hostLoadImage_afterFailure input left hi hf
  · exact hostLoadImage_overValidLine input left hi hf hv

/-! ## The fault ports (R220, R241) -/

/-- After a taken fault the ports show its record. -/
theorem faultPorts_abort (s : State) {f : Fault} {k : FaultRecord} (h : f.record = some k) :
    FaultPorts (s.abort f) k.kind.code k.stage.code k.word k.addr := by
  simp [FaultPorts, State.ports, h]

/-- Settles O52: each fault's record, with its codes, on the ports. -/
theorem portsShowTheFault : Obligations.PortsShowTheFault := by
  intro s w a
  refine ⟨faultPorts_abort s (f := .decodeError w) rfl, faultPorts_abort s (f := .arithmeticError w) rfl,
    faultPorts_abort s (f := .memoryError .accessMemory w a) rfl, faultPorts_abort s (f := .memoryError .fetch 0#32 a) rfl,
    fun h => ?_⟩
  simp only [State.ports, h, Option.map_none, Option.getD_none, and_self]

/-! ## The clock edge (R220) -/

section Requests

variable {loadFirst : Bool} {p : PortIn} {s : State}

theorem clockEdge_stepOnly (hr : p.rst = false) (hen : p.stepEn = true) (hld : p.ldValid = false) :
    clockEdge loadFirst p s = step s := by
  simp only [clockEdge, hr, hen, hld, Bool.false_eq_true, if_false]

theorem clockEdge_loadOnly (hr : p.rst = false) (hen : p.stepEn = false) (hld : p.ldValid = true) :
    clockEdge loadFirst p s = hostLoadWord p.ldAddr p.ldData s := by
  simp only [clockEdge, hr, hen, hld, Bool.false_eq_true, if_false]

theorem clockEdge_noRequest (hr : p.rst = false) (hen : p.stepEn = false) (hld : p.ldValid = false) :
    clockEdge loadFirst p s = .next s := by
  simp only [clockEdge, hr, hen, hld, Bool.false_eq_true, if_false]

/-- A step and a load at one edge, in the order that `loadFirst` says (log entry 15). -/
theorem clockEdge_stepAndLoad (hr : p.rst = false) (hen : p.stepEn = true) (hld : p.ldValid = true) :
    clockEdge loadFirst p s =
      inIdle s
        (if loadFirst = true then step (s.pokeDram p.ldAddr p.ldData) else withWord p.ldAddr p.ldData (step s)) := by
  simp only [clockEdge, hr, hen, hld, Bool.false_eq_true, if_false]

end Requests

/-- Settles O56: reset wins; otherwise the two requests say what the edge does. -/
theorem clockEdgeTakesTheRequest : Obligations.ClockEdgeTakesTheRequest := by
  intro loadFirst p s
  refine ⟨fun hr => if_pos hr, fun hr hen hld => ?_, clockEdge_loadOnly, clockEdge_noRequest,
    fun hr hen hld => ⟨fun hi => ⟨fun hfirst => ?_, fun hlast t ht => ?_⟩, fun hi => ?_⟩⟩
  · have hedge : clockEdge loadFirst p s = step s := clockEdge_stepOnly hr hen hld
    exact ⟨hedge, fun hrun => hedge.trans (hrun.elim step_halted step_faulted)⟩
  · refine ⟨s.pokeDram p.ldAddr p.ldData, inIdle_idle _ hi, ?_⟩
    rw [clockEdge_stepAndLoad hr hen hld, inIdle_idle _ hi, if_pos hfirst]
  · rw [clockEdge_stepAndLoad hr hen hld, inIdle_idle _ hi, if_neg (Bool.eq_false_iff.1 hlast), ht]
    rfl
  · rw [clockEdge_stepAndLoad hr hen hld, inIdle_outside _ hi]

end Sys2Proof.Machine
end

section
/-!
PROOFS. Statement O49: from a state that keeps the invariant every action of a step answers, because each operation after
decode finds the fields its variant set (R32, R33), and only execute and decode take a fault (R212).
-/

namespace Sys2Proof.Machine

/-! ## The operations on a record of their form -/

/-- The fields of the record that are set, but for `res`. -/
def InFlight.fields (r : InFlight) : FieldsSet :=
  { rd := r.rd.isSome, a := r.a.isSome, b := r.b.isSome, addr := r.addr.isSome }

theorem InFlight.fields_of_ok {res : Bool} {r : InFlight} (h : r.ok res = true) : r.fields = fieldsSet r.op := by
  obtain ⟨-, -, hfields, -⟩ := InFlight.ok_iff.1 h
  exact hfields

section Fields

variable {r : InFlight} {fs : FieldsSet} (h : r.fields = fs)

include h

theorem InFlight.rd_set (hf : fs.rd = true) : ∃ d, r.rd = some d :=
  Option.isSome_iff_exists.1 ((congrArg FieldsSet.rd h).trans hf)

theorem InFlight.a_set (hf : fs.a = true) : ∃ a, r.a = some a :=
  Option.isSome_iff_exists.1 ((congrArg FieldsSet.a h).trans hf)

theorem InFlight.b_set (hf : fs.b = true) : ∃ b, r.b = some b :=
  Option.isSome_iff_exists.1 ((congrArg FieldsSet.b h).trans hf)

theorem InFlight.addr_set (hf : fs.addr = true) : ∃ t, r.addr = some t :=
  Option.isSome_iff_exists.1 ((congrArg FieldsSet.addr h).trans hf)

end Fields

/-- Execute answers a record, or its fault. -/
theorem opsOf_execute_answers {i : Instr} {r : InFlight} (c : Config) (h : r.fields = fieldsSet i) :
    (∃ r', (opsOf i c).execute r = .next r') ∨ ∃ f, (opsOf i c).execute r = .fault f := by
  cases i with
  | divu | divui | divs | divsi =>
    obtain ⟨a, ha⟩ := InFlight.a_set h rfl
    obtain ⟨b, hb⟩ := InFlight.b_set h rfl
    by_cases h0 : b = 0#32
    · exact .inr ⟨_, executeDivide_zero ha (h0 ▸ hb)⟩
    · exact .inl ⟨_, executeDivide_set ha hb h0⟩
  | cmpu | cmps | not | mov | nop | ldr | ldri | str | stri | jmp | jmpi | jmps | jmpsi | sih | int | rfi =>
    exact .inl ⟨r, rfl⟩
  | _ =>
    obtain ⟨a, ha⟩ := InFlight.a_set h rfl
    obtain ⟨b, hb⟩ := InFlight.b_set h rfl
    exact .inl ⟨_, executeBinary_set ha hb⟩

/-- Access-memory completes. -/
theorem opsOf_accessMemory_answers {i : Instr} {r : InFlight} (c : Config) (ch : Chain) (h : r.fields = fieldsSet i) :
    ∃ acc, (opsOf i c).accessMemory r ch = .next acc := by
  cases i with
  | ldr | ldri =>
    obtain ⟨t, ht⟩ := InFlight.addr_set h rfl
    obtain ⟨n, v, ch', hread⟩ := memRead_waits c ch t
    exact ⟨_, accessLoad_set ht hread⟩
  | str | stri =>
    obtain ⟨t, ht⟩ := InFlight.addr_set h rfl
    obtain ⟨v, hv⟩ := InFlight.a_set h rfl
    obtain ⟨n, ch', hwrite⟩ := memWrite_waits c ch t v
    exact ⟨_, accessStore_set ht hv hwrite⟩
  | int =>
    obtain ⟨v, hv⟩ := InFlight.a_set h rfl
    obtain ⟨n, ch', hwrite⟩ := memWrite_waits c ch c.intCodeAddr v
    exact ⟨_, accessRecordCode_set hv hwrite⟩
  | _ => exact ⟨_, rfl⟩

/-- Write-back completes on a record whose `res` the earlier stages set where its variant needs it. -/
theorem opsOf_writeBack_answers {i : Instr} {r : InFlight} (c : Config) (x : Regs) (h : r.fields = fieldsSet i)
    (hres : r.res.isSome = (resAtExecute i || resAtAccess i)) : ∃ y, (opsOf i c).writeBack r x = .next y := by
  cases i with
  | cmpu | cmps =>
    obtain ⟨a, ha⟩ := InFlight.a_set h rfl
    obtain ⟨b, hb⟩ := InFlight.b_set h rfl
    exact ⟨_, writeCompare_set ha hb⟩
  | not | mov =>
    obtain ⟨d, hd⟩ := InFlight.rd_set h rfl
    obtain ⟨a, ha⟩ := InFlight.a_set h rfl
    exact ⟨_, writeOfA_set hd ha⟩
  | jmp | jmpi | jmps | jmpsi =>
    obtain ⟨t, ht⟩ := InFlight.addr_set h rfl
    exact ⟨_, writeJump_set ht⟩
  | sih =>
    obtain ⟨a, ha⟩ := InFlight.a_set h rfl
    exact ⟨_, writeHandler_set ha⟩
  | nop | str | stri | int | rfi => exact ⟨_, rfl⟩
  | _ =>
    obtain ⟨d, hd⟩ := InFlight.rd_set h rfl
    obtain ⟨v, hv⟩ := Option.isSome_iff_exists.1 hres
    exact ⟨_, writeResult_set hd hv⟩

/-! ## The actions of a sound machine -/

theorem actWriteBack_answers {s : State} (hs : s.Sound) : ∃ t, actWriteBack s = .next t := by
  cases hm : s.slotM with
  | none => exact ⟨_, actWriteBack_empty hm⟩
  | some r =>
    have hrec : r.accessed = true := by simpa only [hm, Option.all_some] using hs.slotM
    obtain ⟨y, hy⟩ := opsOf_writeBack_answers s.config s.regs (InFlight.fields_of_ok hrec) (InFlight.res_of_ok hrec)
    exact ⟨_, actWriteBack_of_opsOf hm hy⟩

theorem actAccessMemory_answers {s : State} (hs : s.Sound) : ∃ t, actAccessMemory s = .next t := by
  cases hx : s.slotX with
  | none => exact ⟨_, actAccessMemory_empty hx⟩
  | some r =>
    have hrec : r.executed = true := by simpa only [hx, Option.all_some] using hs.slotX
    obtain ⟨acc, hacc⟩ := opsOf_accessMemory_answers s.config s.chain (InFlight.fields_of_ok hrec)
    rw [actAccessMemory_filled hx]
    exact ⟨_, exec_accessMemory (s := { s with stageOp := .accessMemory }) rfl hx hacc⟩

theorem actExecute_answers {s : State} (hs : s.Sound) : ∃ t, actExecute s = .next t := by
  cases hd : s.slotD with
  | none => exact ⟨_, actExecute_empty hd⟩
  | some r =>
    have hrec : r.decoded = true := by simpa only [hd, Option.all_some] using hs.slotD
    rw [actExecute_filled hd]
    rcases opsOf_execute_answers s.config (InFlight.fields_of_ok hrec) with ⟨r', he⟩ | ⟨f, he⟩
    · exact ⟨_, exec_execute (s := { s with stageOp := .execute }) rfl hd he⟩
    · exact ⟨_, exec_execute_fault (s := { s with stageOp := .execute }) rfl hd he⟩

/-- Decode answers for every word: an illegal one is its fault (R104). -/
theorem actDecode_answers (s : State) : ∃ t, actDecode s = .next t := by
  cases hf : s.slotF with
  | none => exact ⟨_, actDecode_empty hf⟩
  | some w =>
    cases hw : decodeWord w with
    | ok i =>
      rw [actDecode_legal hf hw]
      exact ⟨_, exec_decode (s := { s with stageOp := .decode }) rfl hf⟩
    | error e => exact ⟨_, actDecode_illegal hf hw⟩

/-! ## The step -/

/-- An action that answers, before something that answers wherever the action leads without a fault. -/
theorem perform_answers {act next : State → Host.Outcome State Fault Refusal} {s : State} (h : ∃ t, act s = .next t)
    (hnext : ∀ t, act s = .next t → t.runState ≠ .faulted → ∃ u, next t = .next u) :
    ∃ u, perform act next s = .next u := by
  obtain ⟨t, ht⟩ := h
  by_cases hf : t.runState = .faulted
  · exact ⟨t, perform_taken ht hf⟩
  · obtain ⟨u, hu⟩ := hnext t ht hf
    exact ⟨u, (perform_next ht hf).trans hu⟩

/-- Settles O49: each action answers from a sound machine, and leaves one for the next action. -/
theorem everyStepAnswersANextState : Obligations.EveryStepAnswersANextState := by
  intro s hinv
  by_cases ha : s.active = true
  · obtain ⟨hs, -, -⟩ := State.inv_iff.1 hinv
    rw [step_active ha]
    refine perform_answers (actWriteBack_answers hs) fun s1 h1 _ => ?_
    obtain ⟨sound1, -⟩ := actWriteBack_keeps h1 hs
    refine perform_answers (actAccessMemory_answers sound1) fun s2 h2 _ => ?_
    obtain ⟨sound2, -⟩ := actAccessMemory_keeps h2 sound1
    refine perform_answers (actExecute_answers sound2) fun s3 _ _ => ?_
    refine perform_answers (actDecode_answers s3) fun s4 _ _ => ?_
    obtain ⟨n, w, ch, -, hfetch⟩ := actFetch_next s4
    exact perform_answers ⟨_, hfetch⟩ fun _ _ _ => ⟨_, rfl⟩
  · exact ⟨s, step_inactive ha⟩

end Sys2Proof.Machine
end

section
/-!
PROOFS. Statement O41: a step with an empty pipeline (49_pipeline_control.md R206 to R209, R217). `Advances` says
everything that a step leaves which neither faults nor accesses memory but for its fetch, and `step_advances` when a step
is one.
-/

namespace Sys2Proof.Machine

/-! ## A step that accesses no memory but for its fetch -/

/-- What a fetched word leaves in `slot.F` (R206). -/
def fetchedSlot (w : Word) : Option Word := if w = 0#32 then none else some w

theorem fetchedSlot_sentinel : fetchedSlot 0#32 = none := rfl

theorem fetchedSlot_word {w : Word} (h : w ≠ 0#32) : fetchedSlot w = some w := if_neg h

/-- The step from `s` to `t` completes: its write-back leaves the registers `y`, its decode the slot `d` and its execute
the slot `e`; access-memory hands on the record of `slot.X`. -/
structure Advances (s t : State) (y : Regs) (d e : Option InFlight) : Prop where
  answers : step s = .next t
  regs : t.regs = writeReg y Reg.pc (readReg y Reg.pc + 1#32)
  slotF : t.slotF = fetchedSlot (s.mem (readReg y Reg.pc))
  slotD : t.slotD = d
  slotX : t.slotX = e
  slotM : t.slotM = s.slotX
  slotW : t.slotW = s.slotM
  runState : t.runState = if t.anySlot = true then .running else .halted
  config : t.config = s.config
  chain : t.chain.ok t.config = true
  mem : ∀ a, t.mem a = s.mem a

/-- The machine after the first four actions of such a step. -/
def State.advanced (s : State) (y : Regs) (d e : Option InFlight) : State :=
  { s with regs := y, slotW := s.slotM, slotM := s.slotX, slotX := e, slotD := d, stageOp := .decode }

/-- The fetch, the increment and the return after the first four actions (R206 to R208). -/
theorem advances_of_fetch {s : State} {y : Regs} {d e : Option InFlight} (hok : s.chain.ok s.config = true)
    (ha : s.active = true) (h : step s = perform actFetch finishStep (s.advanced y d e)) : ∃ t, Advances s t y d e := by
  obtain ⟨n, ch, hread, hok', hview⟩ := Chain.memRead_view (readReg y Reg.pc) hok
  have hfetch := actFetch_wait (s := s.advanced y d e) hread
  exact ⟨_, h.trans (perform_next hfetch (State.runState_ne_faulted ha)), rfl, rfl, rfl, rfl, rfl, rfl, rfl, rfl, hok',
    hview⟩

/-- The registers after the write-back of the slot (R202). -/
def WritesBack (c : Config) (x y : Regs) : Option InFlight → Prop
  | none => y = x
  | some r => (opsOf r.op c).writeBack r x = .next y

/-- The slot holds no instruction with a memory operation (R203). -/
def AccessesNothing : Option InFlight → Prop
  | none => True
  | some r => ∀ c, (opsOf r.op c).accessMemory = accessNothing

/-- What execute makes of a slot, if it does not fail (R204). -/
def Executes (c : Config) : Option InFlight → Option InFlight → Prop :=
  Option.Rel fun r r' => (opsOf r.op c).execute r = .next r'

/-- What decode makes of a slot that holds no illegal word (R205). -/
def Decodes (c : Config) (y : Regs) : Option Word → Option InFlight → Prop :=
  Option.Rel fun w r => ∃ i, decodeWord w = .ok i ∧ r = decodedRecord i w c y

theorem actWriteBack_of_writesBack {s : State} {y : Regs} (h : WritesBack s.config s.regs y s.slotM) :
    actWriteBack s = .next { s with slotW := s.slotM, regs := y, stageOp := .writeBack } := by
  rcases Option.eq_none_or_eq_some s.slotM with hm | ⟨r, hm⟩
  · rw [hm] at h
    cases (h : y = s.regs)
    rw [actWriteBack_empty hm, hm]
  · rw [hm] at h
    rw [actWriteBack_of_opsOf hm h, hm]

theorem actAccessMemory_of_nothing {s : State} (h : AccessesNothing s.slotX) :
    actAccessMemory s = .next { s with slotM := s.slotX, stageOp := .accessMemory } := by
  rcases Option.eq_none_or_eq_some s.slotX with hx | ⟨r, hx⟩
  · rw [actAccessMemory_empty hx, hx]
  · rw [hx] at h
    rw [actAccessMemory_filled hx, hx]
    exact accessMoves_of_opsOf h _ r rfl rfl

theorem actExecute_of_executes {s : State} {e : Option InFlight} (h : Executes s.config s.slotD e) :
    actExecute s = .next { s with slotX := e, stageOp := .execute } := by
  rcases Option.eq_none_or_eq_some s.slotD with hd | ⟨r, hd⟩
  · rw [hd] at h
    cases h
    exact actExecute_empty hd
  · rw [hd] at h
    obtain ⟨he⟩ := h
    rw [actExecute_filled hd]
    exact exec_execute (s := { s with stageOp := .execute }) rfl hd he

theorem actDecode_of_decodes {s : State} {d : Option InFlight} (h : Decodes s.config s.regs s.slotF d) :
    actDecode s = .next { s with slotD := d, stageOp := .decode } := by
  rcases Option.eq_none_or_eq_some s.slotF with hf | ⟨w, hf⟩
  · rw [hf] at h
    cases h
    exact actDecode_empty hf
  · rw [hf] at h
    obtain ⟨⟨i, hi, rfl⟩⟩ := h
    rw [actDecode_legal hf hi]
    exact exec_decode (s := { s with stageOp := .decode }) rfl hf

/-- A requested step whose first four actions take no fault goes on with its fetch (R201). -/
theorem step_of_actions {s s1 s2 s3 s4 : State} (ha : s.active = true) (h1 : actWriteBack s = .next s1)
    (h2 : actAccessMemory s1 = .next s2) (h3 : actExecute s2 = .next s3) (hs3 : s3.runState ≠ .faulted)
    (h4 : actDecode s3 = .next s4) (hs4 : s4.runState ≠ .faulted) : step s = perform actFetch finishStep s4 := by
  have hs1 : s1.runState ≠ .faulted := actWriteBack_runState h1 ▸ State.runState_ne_faulted ha
  have hs2 : s2.runState ≠ .faulted := actAccessMemory_runState h2 ▸ hs1
  rw [step_active ha, stepActions, perform_next h1 hs1, perform_next h2 hs2, perform_next h3 hs3, perform_next h4 hs4]

/-- A requested step with nothing in it that faults or accesses memory. -/
theorem step_advances {s : State} {y : Regs} {d e : Option InFlight} (ha : s.active = true)
    (hok : s.chain.ok s.config = true) (hwb : WritesBack s.config s.regs y s.slotM) (hacc : AccessesNothing s.slotX)
    (hexe : Executes s.config s.slotD e) (hdec : Decodes s.config y s.slotF d) : ∃ t, Advances s t y d e := by
  have hs := State.runState_ne_faulted ha
  exact advances_of_fetch hok ha (step_of_actions ha (actWriteBack_of_writesBack hwb) (actAccessMemory_of_nothing hacc)
    (actExecute_of_executes hexe) hs (actDecode_of_decodes hdec) hs)

/-! ## An empty pipeline (R209, R217) -/

/-- Such a step with slots F, D, X and M empty. -/
theorem step_advances_empty {s : State} (ha : s.active = true) (hok : s.chain.ok s.config = true)
    (hF : s.slotF = none) (hD : s.slotD = none) (hX : s.slotX = none) (hM : s.slotM = none) :
    ∃ t, Advances s t s.regs none none := by
  refine step_advances ha hok ?_ ?_ ?_ ?_
  · rw [hM]
    rfl
  · rw [hX]
    trivial
  · rw [hD]
    exact .none
  · rw [hF]
    exact .none

/-- Settles O41: the only slot that a step of an empty pipeline can fill is `slot.F`. -/
theorem sentinelWithEmptyPipelineHalts : Obligations.SentinelWithEmptyPipelineHalts := by
  intro s ha hok hF hD hX hM
  obtain ⟨t, h⟩ := step_advances_empty ha hok hF hD hX hM
  have hM' := h.slotM.trans hX
  have hW' := h.slotW.trans hM
  have hany : t.anySlot = t.slotF.isSome := by simp [State.anySlot, h.slotD, h.slotX, hM', hW']
  refine ⟨t, h.answers, fun q => ?_, h.mem, h.slotD, h.slotX, hM', hW', ?_⟩
  · rw [State.reg, h.regs, readReg_writeReg]
    rfl
  · have hrun := h.runState
    have hslot : t.slotF = fetchedSlot (s.mem (s.reg Reg.pc)) := h.slotF
    rw [hany, hslot] at hrun
    split
    · rename_i h0
      rw [h0, fetchedSlot_sentinel] at hrun hslot
      exact ⟨hrun, hslot⟩
    · rename_i h0
      rw [fetchedSlot_word h0] at hrun hslot
      exact ⟨hrun, hslot⟩

end Sys2Proof.Machine
end

section
/-!
PROOFS. Statement O46: the six steps of a lone instruction that computes or moves (49_pipeline_control.md R216). In the
first four it goes from fetch to `slot.M` while only x[28] changes (`Lone`), and decode finds x[28] one past its address;
the fifth writes it back, and the sixth finds the pipeline empty.
-/

namespace Sys2Proof.Machine

/-! ## Registers while only the program counter moves -/

/-- The registers with x[28] `n` further on, modulo 2^32. -/
def pcAfter (x : Regs) (n : Nat) : Regs := writeReg x Reg.pc (readReg x Reg.pc + BitVec.ofNat 32 n)

theorem readReg_pcAfter (x : Regs) (n : Nat) : readReg (pcAfter x n) Reg.pc = readReg x Reg.pc + BitVec.ofNat 32 n :=
  readReg_writeReg_same x Reg.pc _

theorem pcAfter_zero (x : Regs) : pcAfter x 0 = x := by
  refine regs_ext fun q => ?_
  rw [pcAfter, readReg_writeReg]
  split
  · rename_i hq
    rw [hq]
    exact BitVec.add_zero _
  · rfl

theorem pcAfter_succ (x : Regs) (n : Nat) :
    writeReg (pcAfter x n) Reg.pc (readReg (pcAfter x n) Reg.pc + 1#32) = pcAfter x (n + 1) := by
  rw [readReg_pcAfter, pcAfter, writeReg_writeReg_same, pcAfter, BitVec.add_assoc, ← BitVec.ofNat_add]

/-- A write of another register, before or after. -/
theorem writeReg_pcAfter (x : Regs) (n : Nat) {d : Reg} (hd : d ≠ Reg.pc) (v : Word) :
    writeReg (pcAfter x n) d v = pcAfter (writeReg x d v) n := by
  rw [pcAfter, pcAfter, writeReg_comm _ _ _ hd.symm, readReg_writeReg_other _ _ hd.symm]

/-! ## The operations of a lone instruction (R130, R148, R169, R176, R177) -/

/-- A computing instruction, a move or NOT. -/
def ComputesOrMoves (i : Instr) : Prop := fieldsSet i = .alu ∨ fieldsSet i = .move

theorem opsOf_accessMemory_of_computesOrMoves {i : Instr} (h : ComputesOrMoves i) (c : Config) :
    (opsOf i c).accessMemory = accessNothing := by
  cases i with
  | ldr | ldri | str | stri | int => rcases h with h | h <;> cases h
  | _ => rfl

/-- Its write-back writes one value to the record's destination, whatever the registers hold then. -/
theorem opsOf_writeBack_of_computesOrMoves {i : Instr} {c : Config} {r : InFlight} {x y : Regs} (h : ComputesOrMoves i)
    (hw : (opsOf i c).writeBack r x = .next y) :
    ∃ d v, r.rd = some d ∧ y = writeReg x d v ∧ ∀ z, (opsOf i c).writeBack r z = .next (writeReg z d v) := by
  cases i with
  | not | mov =>
    obtain ⟨d, a, hd, ha, rfl⟩ := writeOfA_next hw
    exact ⟨d, _, hd, rfl, fun _ => writeOfA_set hd ha⟩
  | cmpu | cmps | nop | str | stri | jmp | jmpi | jmps | jmpsi | sih | int | rfi => rcases h with h | h <;> cases h
  | _ =>
    obtain ⟨d, v, hd, hv, rfl⟩ := writeResult_next hw
    exact ⟨d, v, hd, rfl, fun _ => writeResult_set hd hv⟩

theorem decodedRecord_rd (i : Instr) (w : Word) (c : Config) (x : Regs) : (decodedRecord i w c x).rd = destination i := by
  cases i <;> rfl

/-- Execute makes of its decoded record one whose write-back writes the destination as the rule does from the registers
that decode read. -/
theorem execute_of_computesOrMoves {i : Instr} {w : Word} {s : State} {x : Regs} (h : ComputesOrMoves i)
    (hi : decodeWord w = .ok i) (hok : s.chain.ok s.config = true) (h0 : divisor i x ≠ some 0#32) :
    ∃ r d v, (opsOf i s.config).execute (decodedRecord i w s.config x) = .next r ∧ r.op = i ∧ destination i = some d ∧
      ruleRegs i x s.mem = writeReg x d v ∧ ∀ z, (opsOf i s.config).writeBack r z = .next (writeReg z d v) := by
  obtain ⟨r, acc, he, hacc, hwb, -, -, -⟩ := opsOf_commits_rule hi hok h0
  rw [opsOf_accessMemory_of_computesOrMoves h] at hacc
  cases hacc
  obtain ⟨d, v, hd, hrule, hwrite⟩ := opsOf_writeBack_of_computesOrMoves h hwb
  obtain ⟨res, rfl, -⟩ := opsOf_execute_next he
  exact ⟨_, d, v, he, decodedRecord_op i w s.config x, (decodedRecord_rd i w s.config x).symm.trans hd, hrule, hwrite⟩

/-! ## The steps before its write-back -/

theorem runSteps_snoc {n : Nat} {s t u : State} (h : runSteps n s = .next t) (hstep : step t = .next u) :
    runSteps (n + 1) s = .next u := by
  induction n generalizing s with
  | zero =>
    cases h
    simp only [runSteps, hstep]
  | succ n ih =>
    rw [runSteps] at h ⊢
    split at h
    · exact ih h
    · cases h
    · cases h

/-- After `n` steps from `s`, a run in which only x[28] has changed has come to `t`, with these slots. -/
structure Lone (s t : State) (n : Nat) (f : Option Word) (d e m : Option InFlight) : Prop where
  runs : runSteps n s = .next t
  active : t.active = true
  config : t.config = s.config
  chain : t.chain.ok t.config = true
  mem : ∀ a, t.mem a = s.mem a
  regs : t.regs = pcAfter s.regs n
  slotF : t.slotF = f
  slotD : t.slotD = d
  slotX : t.slotX = e
  slotM : t.slotM = m

/-- What such a step leaves in the slots says whether the next one is taken (R208, R215). -/
theorem Advances.active_of_anySlot {s t : State} {y : Regs} {d e : Option InFlight} (h : Advances s t y d e)
    (hany : t.anySlot = true) : t.active = true ∧ t.runState = .running := by
  have hrun : t.runState = .running := h.runState.trans (if_pos hany)
  exact ⟨by simp [State.active, hrun], hrun⟩

/-- One more step of the run, with nothing to write back. -/
theorem Lone.advance {s t : State} {n : Nat} {f : Option Word} {d e d' e' : Option InFlight} (f' : Option Word)
    (h : Lone s t n f d e none) (hacc : AccessesNothing e) (hexe : Executes s.config d e')
    (hdec : Decodes s.config (pcAfter s.regs n) f d')
    (hfetch : fetchedSlot (s.mem (s.reg Reg.pc + BitVec.ofNat 32 n)) = f')
    (hany : (f'.isSome || d'.isSome || e'.isSome || e.isSome) = true) : ∃ u, Lone s u (n + 1) f' d' e' e := by
  have hwb : WritesBack t.config t.regs (pcAfter s.regs n) t.slotM := by
    rw [h.slotM]
    exact h.regs.symm
  rw [← h.slotX] at hacc
  rw [← h.config, ← h.slotD] at hexe
  rw [← h.config, ← h.slotF] at hdec
  obtain ⟨u, hu⟩ := step_advances h.active h.chain hwb hacc hexe hdec
  have hF : u.slotF = f' := by rw [hu.slotF, readReg_pcAfter, h.mem, ← hfetch, State.reg]
  have hM := hu.slotM.trans h.slotX
  have hslot : u.anySlot = true := by
    rw [State.anySlot, hF, hu.slotD, hu.slotX, hM, hany, Bool.true_or]
  obtain ⟨hactive, -⟩ := hu.active_of_anySlot hslot
  exact ⟨u, runSteps_snoc h.runs hu.answers, hactive, hu.config.trans h.config, hu.chain,
    fun a => (hu.mem a).trans (h.mem a), hu.regs.trans (pcAfter_succ s.regs n), hF, hu.slotD, hu.slotX, hM⟩

/-- Four steps take the instruction fetched by the first to `slot.M`. -/
theorem lone_reaches_slotM {s : State} {w : Word} {i : Instr} {r : InFlight} (ha : s.active = true)
    (hok : s.chain.ok s.config = true) (hF : s.slotF = none) (hD : s.slotD = none) (hX : s.slotX = none)
    (hM : s.slotM = none) (hw : s.mem (s.reg Reg.pc) = w) (hw0 : w ≠ 0#32) (hi : decodeWord w = .ok i)
    (hzero : ∀ k : Nat, 1 ≤ k → k ≤ 5 → s.mem (s.reg Reg.pc + BitVec.ofNat 32 k) = 0#32)
    (hacc : ∀ c, (opsOf i c).accessMemory = accessNothing) (hop : r.op = i)
    (hexe : (opsOf i s.config).execute (decodedRecord i w s.config (pcAfter s.regs 1)) = .next r) :
    ∃ t, Lone s t 4 none none none (some r) := by
  have sentinel {k : Nat} (h1 : 1 ≤ k) (h5 : k ≤ 5) :
      fetchedSlot (s.mem (s.reg Reg.pc + BitVec.ofNat 32 k)) = none := by rw [hzero k h1 h5, fetchedSlot_sentinel]
  have fetched : fetchedSlot (s.mem (s.reg Reg.pc + BitVec.ofNat 32 0)) = some w := by
    rw [BitVec.add_zero, hw, fetchedSlot_word hw0]
  have idle {c : Config} : Executes c none none := Option.Rel.none
  have empty {c : Config} {y : Regs} : Decodes c y none none := Option.Rel.none
  have h0 : Lone s s 0 none none none none :=
    ⟨rfl, ha, rfl, hok, fun _ => rfl, (pcAfter_zero s.regs).symm, hF, hD, hX, hM⟩
  obtain ⟨t1, h1⟩ := h0.advance (some w) trivial idle empty fetched rfl
  obtain ⟨t2, h2⟩ := h1.advance none trivial idle (Option.Rel.some ⟨i, hi, rfl⟩) (sentinel (by decide) (by decide)) rfl
  have executes : Executes s.config (some (decodedRecord i w s.config (pcAfter s.regs 1))) (some r) :=
    Option.Rel.some (by rw [decodedRecord_op, hexe])
  obtain ⟨t3, h3⟩ := h2.advance none trivial executes empty (sentinel (by decide) (by decide)) rfl
  have haccess : AccessesNothing (some r) := fun c => hop ▸ hacc c
  exact h3.advance none haccess idle empty (sentinel (by decide) (by decide)) rfl

/-! ## Its write-back -/

/-- The step that writes the instruction in `slot.M` back leaves the pipeline empty but for `slot.W`. -/
theorem Lone.writesBack {s t : State} {n : Nat} {r : InFlight} {d : Reg} {v : Word}
    (h : Lone s t n none none none (some r)) (hd : d ≠ Reg.pc)
    (hwrite : ∀ z, (opsOf r.op s.config).writeBack r z = .next (writeReg z d v))
    (hzero : s.mem (s.reg Reg.pc + BitVec.ofNat 32 n) = 0#32) :
    ∃ u, Advances t u (pcAfter (writeReg s.regs d v) n) none none ∧ u.slotF = none ∧
      u.active = true ∧ u.runState = .running := by
  have hwb : WritesBack t.config t.regs (pcAfter (writeReg s.regs d v) n) t.slotM := by
    rw [h.slotM, h.config, h.regs, ← writeReg_pcAfter _ _ hd]
    exact hwrite _
  have hacc : AccessesNothing t.slotX := by
    rw [h.slotX]
    trivial
  have hexe : Executes t.config t.slotD none := by
    rw [h.slotD]
    exact Option.Rel.none
  have hdec : Decodes t.config (pcAfter (writeReg s.regs d v) n) t.slotF none := by
    rw [h.slotF]
    exact Option.Rel.none
  obtain ⟨u, hu⟩ := step_advances h.active h.chain hwb hacc hexe hdec
  refine ⟨u, hu, ?_, hu.active_of_anySlot ?_⟩
  · rw [hu.slotF, readReg_pcAfter, readReg_writeReg_other _ _ hd.symm, h.mem]
    exact (congrArg fetchedSlot hzero).trans fetchedSlot_sentinel
  · simp [State.anySlot, hu.slotW, h.slotM]

/-- Settles O46: four steps move the instruction to `slot.M`, the fifth writes it back over registers that differ in x[28]
only from those that decode read, and the sixth is a step with an empty pipeline. -/
theorem loneInstructionWritesBackInItsFifthStep : Obligations.LoneInstructionWritesBackInItsFifthStep := by
  intro s w i ha hok hF hD hX hM hw hw0 hi hzero hshape hdiv hdest
  obtain ⟨r, d, v, hexe, rfl, hd, hrule, hwrite⟩ :=
    execute_of_computesOrMoves (x := pcAfter s.regs 1) hshape hi hok hdiv
  have hdpc : d ≠ Reg.pc := fun h => hdest (hd.trans (congrArg some h))
  obtain ⟨t4, h4⟩ := lone_reaches_slotM ha hok hF hD hX hM hw hw0 hi hzero
    (opsOf_accessMemory_of_computesOrMoves hshape) rfl hexe
  obtain ⟨t5, h5, hF5, hactive5, hrun5⟩ := h4.writesBack hdpc hwrite (hzero 4 (by decide) (by decide))
  have hmem5 (a : Word) : t5.mem a = s.mem a := (h5.mem a).trans (h4.mem a)
  have hregs5 : t5.regs = pcAfter (writeReg s.regs d v) 5 := h5.regs.trans (pcAfter_succ _ 4)
  have hpc5 : t5.reg Reg.pc = s.reg Reg.pc + 5#32 := by
    rw [State.reg, hregs5, readReg_pcAfter, readReg_writeReg_other _ _ hdpc.symm, State.reg]
  have hrule5 : t5.regs = writeReg (ruleRegs r.op (pcAfter s.regs 1) s.mem) Reg.pc (s.reg Reg.pc + 5#32) := by
    rw [hrule, writeReg_pcAfter _ _ hdpc, pcAfter, writeReg_writeReg_same, hregs5, pcAfter,
      readReg_writeReg_other _ _ hdpc.symm, State.reg]
  have hzero5 : t5.mem (t5.reg Reg.pc) = 0#32 := by
    rw [hpc5, hmem5]
    exact hzero 5 (by decide) (by decide)
  obtain ⟨t6, hstep6, hreg6, -, -, -, -, -, hend⟩ :=
    sentinelWithEmptyPipelineHalts t5 hactive5 h5.chain hF5 h5.slotD h5.slotX (h5.slotM.trans h4.slotX)
  rw [if_pos hzero5] at hend
  rw [hpc5, BitVec.add_assoc] at hreg6
  have hregs6 : t6.regs = writeReg t5.regs Reg.pc (s.reg Reg.pc + 6#32) :=
    regs_ext fun q => (hreg6 q).trans (readReg_writeReg t5.regs Reg.pc q _).symm
  exact ⟨t4, t5, t6, h4.runs, h5.answers, hstep6, h4.regs, hrule5, hrun5, hmem5, hend.1, hregs6⟩

end Sys2Proof.Machine
end

section
/-!
PROOFS. Statements O13, O38, O39 and O44: which faults a step records and what it leaves then (60_exceptions.md R241 to
R245, 49_pipeline_control.md R212, R213), and the step that enters an interrupt or returns from one (R191, R192, R246).
-/

namespace Sys2Proof.Machine

/-! ## The divide by zero (R244) -/

theorem divideByZeroFaults_of_opsOf {i : Instr} {op : Word → Word → Word}
    (h : ∀ c, (opsOf i c).execute = executeDivide op) : DivideByZeroFaults i := by
  intro s r a hs hr ha hb
  have hfault : (opsOf i s.config).execute r = .fault (.arithmeticError r.word) := by rw [h, executeDivide_zero ha hb]
  exact exec_execute_fault hs hr hfault

/-- Settles O13: the execute row of each of the four divides is `executeDivide`. -/
theorem divideByZeroIsAnArithmeticError : Obligations.DivideByZeroIsAnArithmeticError :=
  ⟨fun _ _ _ => ⟨divideByZeroFaults_of_opsOf fun _ => rfl, divideByZeroFaults_of_opsOf fun _ => rfl⟩,
    fun _ _ _ => ⟨divideByZeroFaults_of_opsOf fun _ => rfl, divideByZeroFaults_of_opsOf fun _ => rfl⟩⟩

/-- A divide that answers a record did not divide by 0. -/
theorem executeDivide_next_divisor {op : Word → Word → Word} {r r' : InFlight} (h : executeDivide op r = .next r') :
    r.b ≠ some 0#32 := by
  intro hb
  obtain ⟨a, ha, -⟩ := needField_next h
  rw [executeDivide_zero ha hb] at h
  cases h

theorem opsOf_execute_next_divisor {i : Instr} {c : Config} {r r' : InFlight} {x : Regs}
    (h : (opsOf i c).execute r = .next r') (hdiv : (divisor i x).isSome = true) : r.b ≠ some 0#32 := by
  cases i with
  | divu | divui | divs | divsi => exact executeDivide_next_divisor h
  | _ => cases hdiv

/-- An execute action that completes found no divide by 0 in `slot.D`. -/
theorem actExecute_completes_divisor {s t : State} {r : InFlight} {x : Regs} (h : actExecute s = .next t)
    (ht : t.runState ≠ .faulted) (hr : s.slotD = some r) (hdiv : (divisor r.op x).isSome = true) :
    r.b ≠ some 0#32 := by
  rcases actExecute_next h with ⟨hd, -⟩ | ⟨r', hr', ⟨q, hq, -⟩ | ⟨-, rfl⟩⟩
  · cases hd.symm.trans hr
  · cases hr.symm.trans hr'
    exact opsOf_execute_next_divisor hq hdiv
  · exact absurd rfl ht

/-! ## No MemoryError (R54, R242) -/

/-- A completed step writes no fault record (R37, R212). -/
theorem completedStep_faultRecord {s t : State} (ha : s.active = true) (h : step s = .next t)
    (ht : t.runState ≠ .faulted) : t.faultRecord = s.faultRecord := by
  cases stepRun_of_step ha h with
  | executeFaults _ _ _ hf => exact absurd hf ht
  | decodeFaults _ _ _ _ _ hf => exact absurd hf ht
  | @completed s1 s2 s3 s4 s5 h1 h2 h3 hs3 h4 hs4 h5 done =>
    have f1 : s1.faultRecord = s.faultRecord := by
      obtain ⟨x, rfl⟩ := actWriteBack_frame h1
      rfl
    have f2 : s2.faultRecord = s1.faultRecord := by
      rcases actAccessMemory_next h2 with ⟨-, rfl⟩ | ⟨r, acc, -, -, rfl⟩ <;> rfl
    have f3 : s3.faultRecord = s2.faultRecord := by
      rcases actExecute_next h3 with ⟨-, rfl⟩ | ⟨r, -, ⟨r', -, rfl⟩ | ⟨-, rfl⟩⟩
      · rfl
      · rfl
      · exact absurd rfl hs3
    have f4 : s4.faultRecord = s3.faultRecord := by
      rcases actDecode_next h4 with ⟨-, rfl⟩ | ⟨w, -, ⟨i, -, rfl⟩ | ⟨-, rfl⟩⟩
      · rfl
      · rfl
      · exact absurd rfl hs4
    have f5 : s5.faultRecord = s4.faultRecord := by
      obtain ⟨n, w, ch, -, heq⟩ := actFetch_next s4
      cases heq.symm.trans h5
      rfl
    rw [done, actReturn_faultRecord, actIncrement_faultRecord, f5, f4, f3, f2, f1]

/-- Settles O39: a step that does not keep the fault record aborts, with an ArithmeticError or a DecodeError. -/
theorem noMemoryErrorOccurs : Obligations.NoMemoryErrorOccurs := by
  intro s t f h hf hkind
  by_cases ha : s.active = true
  · by_cases ht : t.runState = .faulted
    · obtain ⟨-, s2, -, -, ⟨r, -, -, -, rfl⟩ | ⟨s3, w, e, -, -, -, -, rfl⟩⟩ :=
        abortKeepsWhatCompletedActionsDid.1 s t ha h ht
      · cases hf
        cases hkind
      · cases hf
        cases hkind
    · exact (completedStep_faultRecord ha h ht).symm.trans hf
  · cases (step_inactive ha).symm.trans h
    exact hf

/-! ## The illegal word (R212, R213, R245) -/

/-- An aborted step keeps `slot.F` and `step_count`, and the registers as its write-back left them (R213). -/
theorem abortedStep_keeps {s t s1 : State} (ha : s.active = true) (h : step s = .next t) (ht : t.runState = .faulted)
    (hwb : actWriteBack s = .next s1) : t.slotF = s.slotF ∧ t.regs = s1.regs ∧ t.stepCount = s.stepCount := by
  obtain ⟨s1', s2, h1, h2, hfault⟩ := abortKeepsWhatCompletedActionsDid.1 s t ha h ht
  cases hwb.symm.trans h1
  have hcount : s2.stepCount = s.stepCount :=
    congrArg Prod.snd ((actAccessMemory_returned h2).trans (actWriteBack_returned h1))
  obtain ⟨x, rfl⟩ := actWriteBack_frame h1
  obtain ⟨-, hF2, -, -, regs2⟩ := actAccessMemory_moves h2
  rcases hfault with ⟨r, -, -, -, rfl⟩ | ⟨s3, w, e, h3, hs3, -, -, rfl⟩
  · exact ⟨hF2, regs2, hcount⟩
  · obtain ⟨-, hF3, -, -, regs3⟩ := actExecute_moves h3 hs3
    exact ⟨hF3.trans hF2, regs3.trans regs2, (congrArg Prod.snd (actExecute_returned h3)).trans hcount⟩

/-- A step with an illegal word in `slot.F` aborts: a completed one would hold its decoded record in `slot.D`. -/
theorem illegalWord_aborts {s t s1 : State} {w : Word} {e : DecodeRefusal} (hinv : s.Inv = true) (ha : s.active = true)
    (hF : s.slotF = some w) (he : decodeWord w = .error e) (h : step s = .next t) (hwb : actWriteBack s = .next s1) :
    t.runState = .faulted := by
  by_contra ht
  obtain ⟨-, -, -, hword, hdecoded, -⟩ := instructionsMoveForwardOneStage s t s1 hinv ha h ht hwb
  obtain ⟨r, hr, rfl⟩ := Option.map_eq_some_iff.1 (hword.trans hF)
  cases he.symm.trans (hdecoded r hr)

/-- Settles O38: the step aborts, and it aborts at decode exactly if its execute found no divide by 0. -/
theorem illegalWordFaultsOneStepAfterItsFetch : Obligations.IllegalWordFaultsOneStepAfterItsFetch := by
  intro s w e hinv ha hF he
  obtain ⟨t, h⟩ := everyStepAnswersANextState s hinv
  obtain ⟨hs, -, -⟩ := State.inv_iff.1 hinv
  obtain ⟨s1, hwb⟩ := actWriteBack_answers hs
  have ht := illegalWord_aborts hinv ha hF he h hwb
  obtain ⟨hslot, hregs, hcount⟩ := abortedStep_keeps ha h ht hwb
  refine ⟨t, s1, h, hwb, ht, hslot.trans hF, hregs, hcount, ?_⟩
  obtain ⟨s1', s2, h1, h2, ⟨r, hr, hdiv, hb, rfl⟩ | ⟨s3, w', e', h3, hs3, hw', -, rfl⟩⟩ :=
    abortKeepsWhatCompletedActionsDid.1 s t ha h ht
  · rw [hr]
    exact (if_pos ⟨hdiv, hb⟩).symm
  · cases hF.symm.trans hw'
    cases hD : s.slotD with
    | none => rfl
    | some r =>
      obtain ⟨x, rfl⟩ := actWriteBack_frame h1
      obtain ⟨-, -, hD2, -, -⟩ := actAccessMemory_moves h2
      exact (if_neg fun ⟨hdiv, hb⟩ => actExecute_completes_divisor h3 hs3 (hD2.trans hD) hdiv hb).symm

/-! ## Interrupt entry and return (R191, R192, R246) -/

/-- What a completed step makes of the registers `y` that its write-back leaves: the fetch reads at their program counter,
and only that register moves on (R206, R207). -/
theorem completedStep_of_writeBack {s t : State} {r : InFlight} {y : Regs} (hinv : s.Inv = true) (ha : s.active = true)
    (hr : s.slotM = some r) (h : step s = .next t) (ht : t.runState ≠ .faulted)
    (hw : (opsOf r.op s.config).writeBack r s.regs = .next y) :
    t.reg Reg.pc = readReg y Reg.pc + 1#32 ∧ t.slotF = fetchedSlot (t.mem (readReg y Reg.pc)) ∧
      ∀ q, q ≠ Reg.pc → t.reg q = readReg y q := by
  have hwb := actWriteBack_of_opsOf hr hw
  obtain ⟨hpc, hother, -⟩ := programCounterAdvances s t _ ha h ht hwb
  obtain ⟨-, -, -, -, -, hfetch⟩ := instructionsMoveForwardOneStage s t _ hinv ha h ht hwb
  exact ⟨hpc, hfetch, hother⟩

/-- Settles O44: the write-back of INT leaves the handler in x[28] and the link in x[26], that of RFI the link in x[28];
the fetch and the increment of the same step go on from there. -/
theorem interruptEntryAndReturnInTheStep : Obligations.InterruptEntryAndReturnInTheStep := by
  intro s t r hinv ha hr h ht
  constructor
  · intro code hop
    have hw : (opsOf r.op s.config).writeBack r s.regs = .next (enterInterrupt s.regs) := by rw [hop]; rfl
    obtain ⟨hpc, hfetch, hother⟩ := completedStep_of_writeBack hinv ha hr h ht hw
    have htarget : readReg (enterInterrupt s.regs) Reg.pc = s.reg Reg.intHandler := readReg_enterInterrupt s.regs Reg.pc
    rw [htarget] at hpc hfetch
    refine ⟨?_, hpc, hfetch, fun q hlink hq => ?_⟩
    · exact (hother _ (by decide)).trans (readReg_enterInterrupt s.regs Reg.intLink)
    · rw [hother q hq, readReg_enterInterrupt, if_neg hq, if_neg hlink, State.reg]
  · intro hop
    have hw : (opsOf r.op s.config).writeBack r s.regs = .next (returnFromInterrupt s.regs) := by rw [hop]; rfl
    obtain ⟨hpc, hfetch, hother⟩ := completedStep_of_writeBack hinv ha hr h ht hw
    have htarget : readReg (returnFromInterrupt s.regs) Reg.pc = s.reg Reg.intLink :=
      readReg_returnFromInterrupt s.regs Reg.pc
    rw [htarget] at hpc hfetch
    refine ⟨hpc, hfetch, fun q hq => ?_⟩
    rw [hother q hq, readReg_returnFromInterrupt, if_neg hq, State.reg]

end Sys2Proof.Machine
end

section
/-!
PROOFS. Statement O50: the cache levels, the delays and the caches' contents do not reach the program (20_memory.md R70,
70_reset_and_hazards.md R286).

A machine that agrees with `s` is `s` with its parameters, its chain and its cycle count exchanged (`State.retimed`).
Write-back, execute and decode look at none of these. Access-memory and fetch see them only through Mem, in which the two
machines agree. `Simulated` says this of one action, and `perform_simulated` puts the actions of a step together.
-/

namespace Sys2Proof.Machine

/-! ## Agreement as an exchange of the timing fields -/

/-- The machine with the parameters, the chain and the cycle count of another. -/
def State.retimed (s : State) (c : Config) (ch : Chain) (n : Count) : State :=
  { s with config := c, chain := ch, cycleCount := n }

theorem sameButTiming_retimed {s : State} {c : Config} {ch : Chain} (n : Count)
    (hcode : s.config.intCodeAddr = c.intCodeAddr) (hmem : ∀ a, s.mem a = ch.view c a) :
    sameButTiming s (s.retimed c ch n) :=
  ⟨rfl, rfl, rfl, rfl, rfl, rfl, rfl, rfl, rfl, rfl, rfl, rfl, hcode, hmem⟩

theorem exists_retimed_of_same {s s' : State} (h : sameButTiming s s') :
    ∃ c ch n, s' = s.retimed c ch n ∧ s.config.intCodeAddr = c.intCodeAddr ∧ ∀ a, s.mem a = ch.view c a := by
  obtain ⟨regs, slotF, slotD, slotX, slotM, slotW, count, runState, running, record, failed, op, hcode, hmem⟩ := h
  refine ⟨s'.config, s'.chain, s'.cycleCount, ?_, hcode, hmem⟩
  simp only [State.retimed, regs, slotF, slotD, slotX, slotM, slotW, count, runState, running, record, failed, op]

theorem sameButTiming.runState_eq {s s' : State} (h : sameButTiming s s') : s.runState = s'.runState := by
  obtain ⟨c, ch, n, rfl, -⟩ := exists_retimed_of_same h
  rfl

theorem sameButTiming.active_eq {s s' : State} (h : sameButTiming s s') : s.active = s'.active := by
  rw [State.active, State.active, h.runState_eq]

/-! ## Operations that look at no timing field -/

theorem opsOf_decode_config (i : Instr) (c c' : Config) : (opsOf i c).decode = (opsOf i c').decode := by
  cases i <;> rfl

theorem opsOf_execute_config (i : Instr) (c c' : Config) : (opsOf i c).execute = (opsOf i c').execute := by
  cases i <;> rfl

theorem opsOf_writeBack_config (i : Instr) (c c' : Config) : (opsOf i c).writeBack = (opsOf i c').writeBack := by
  cases i <;> rfl

section Retimed

variable {s t : State} (c : Config) (ch : Chain) (n : Count)

/-- A stage operation other than access-memory does the same in a retimed machine. -/
theorem exec_retimed {i : Instr} (hop : s.stageOp ≠ .accessMemory) (h : exec i s = .next t) :
    exec i (s.retimed c ch n) = .next (t.retimed c ch n) := by
  rw [exec_eq_runStage] at h ⊢
  rcases runStage_cases h with ⟨hs, w, hw, rfl⟩ | ⟨hs, r, hr, ⟨r', he, rfl⟩ | ⟨f, he, rfl⟩⟩ | ⟨hs, -⟩ |
    ⟨hs, r, hr, ⟨x, hx, rfl⟩ | ⟨f, hf, -⟩⟩
  · rw [opsOf_decode_config i _ c]
    exact runStage_decode hs hw
  · rw [opsOf_execute_config i _ c] at he
    exact runStage_execute hs hr he
  · rw [opsOf_execute_config i _ c] at he
    exact runStage_execute_fault hs hr he
  · exact absurd hs hop
  · rw [opsOf_writeBack_config i _ c] at hx
    exact runStage_writeBack hs hr hx
  · exact absurd hf opsOf_writeBack_ne_fault

theorem actWriteBack_retimed (h : actWriteBack s = .next t) :
    actWriteBack (s.retimed c ch n) = .next (t.retimed c ch n) := by
  rcases Option.eq_none_or_eq_some s.slotM with hm | ⟨r, hm⟩
  · cases (actWriteBack_empty hm).symm.trans h
    exact actWriteBack_empty (s := s.retimed c ch n) hm
  · rw [actWriteBack_filled hm] at h
    exact (actWriteBack_filled (s := s.retimed c ch n) hm).trans (exec_retimed c ch n (by nofun) h)

theorem actExecute_retimed (h : actExecute s = .next t) :
    actExecute (s.retimed c ch n) = .next (t.retimed c ch n) := by
  rcases Option.eq_none_or_eq_some s.slotD with hd | ⟨r, hd⟩
  · cases (actExecute_empty hd).symm.trans h
    exact actExecute_empty (s := s.retimed c ch n) hd
  · rw [actExecute_filled hd] at h
    exact (actExecute_filled (s := s.retimed c ch n) hd).trans (exec_retimed c ch n (by nofun) h)

theorem actDecode_retimed (h : actDecode s = .next t) :
    actDecode (s.retimed c ch n) = .next (t.retimed c ch n) := by
  rcases Option.eq_none_or_eq_some s.slotF with hf | ⟨w, hf⟩
  · cases (actDecode_empty hf).symm.trans h
    exact actDecode_empty (s := s.retimed c ch n) hf
  · cases hw : decodeWord w with
    | ok i =>
      rw [actDecode_legal hf hw] at h
      exact (actDecode_legal (s := s.retimed c ch n) hf hw).trans (exec_retimed c ch n (by nofun) h)
    | error e =>
      cases (actDecode_illegal hf hw).symm.trans h
      exact actDecode_illegal (s := s.retimed c ch n) hf hw

end Retimed

/-! ## Access-memory sees the chain through Mem -/

/-- What access-memory makes of a record, given Mem (R120 to R123). -/
def InFlight.afterAccess (r : InFlight) (mem : Word → Word) : InFlight :=
  if resAtAccess r.op = true then { r with res := r.addr.map mem } else r

theorem opsOf_accessMemory_record {c : Config} {r : InFlight} {ch : Chain} {acc : Access} (hok : ch.ok c = true)
    (h : (opsOf r.op c).accessMemory r ch = .next acc) : acc.record = r.afterAccess (ch.view c) := by
  cases hop : r.op with
  | ldr | ldri =>
    rw [hop] at h
    obtain ⟨t, n, v, ch', ht, hread, rfl⟩ := accessLoad_next h
    obtain ⟨_, _, hread', -⟩ := Chain.memRead_view t hok
    cases hread.symm.trans hread'
    rw [InFlight.afterAccess, hop, ht]
    rfl
  | str | stri =>
    rw [hop] at h
    obtain ⟨t, v, n, ch', -, -, -, rfl⟩ := accessStore_next h
    rw [InFlight.afterAccess, hop]
    rfl
  | int =>
    rw [hop] at h
    obtain ⟨v, n, ch', -, -, rfl⟩ := accessRecordCode_next h
    rw [InFlight.afterAccess, hop]
    rfl
  | _ =>
    rw [hop] at h
    cases h
    rw [InFlight.afterAccess, hop]
    rfl

/-- Access-memory changes the chain, the cycle count and `slot.M`, the last as Mem says. -/
theorem actAccessMemory_frame {s t : State} (h : actAccessMemory s = .next t) (hs : s.Sound) :
    ∃ ch n, t =
      { s with slotM := s.slotX.map (·.afterAccess s.mem), chain := ch, cycleCount := n, stageOp := .accessMemory } := by
  rcases actAccessMemory_next h with ⟨hx, rfl⟩ | ⟨r, acc, hx, hacc, rfl⟩
  · exact ⟨s.chain, s.cycleCount, by rw [hx]; rfl⟩
  · refine ⟨acc.chain, s.cycleCount + BitVec.ofNat 64 acc.cycles, ?_⟩
    rw [hx, opsOf_accessMemory_record hs.chain hacc]
    rfl

theorem InFlight.writeAddress_congr {c c' : Config} (h : c.intCodeAddr = c'.intCodeAddr) (r : InFlight) :
    r.writeAddress c = r.writeAddress c' := by
  simp only [InFlight.writeAddress, h]

theorem sameButTiming.memAfterStep_eq {s s' : State} (h : sameButTiming s s') (a : Word) :
    s.memAfterStep a = s'.memAfterStep a := by
  obtain ⟨c, ch, n, rfl, hcode, hmem⟩ := exists_retimed_of_same h
  cases hx : s.slotX with
  | none => rw [State.memAfterStep_empty hx, hmem, State.memAfterStep_empty (s := s.retimed c ch n) hx]; rfl
  | some r =>
    rw [State.memAfterStep_filled hx, hmem, State.memAfterStep_filled (s := s.retimed c ch n) hx,
      InFlight.writeAddress_congr hcode]
    rfl

/-! ## One action in two machines that agree -/

/-- From sound machines that agree, the action leads to machines that agree. -/
def Simulated (act : State → Host.Outcome State Fault Refusal) : Prop :=
  ∀ s s', s.Sound → s'.Sound → sameButTiming s s' → ∃ t t', act s = .next t ∧ act s' = .next t' ∧ sameButTiming t t'

/-- Unless it takes a fault, the action leads from sound machines to sound ones. -/
def KeepsSound (act : State → Host.Outcome State Fault Refusal) : Prop :=
  ∀ s t, act s = .next t → t.runState ≠ .faulted → s.Sound → t.Sound

/-- An action that answers, and does the same in a retimed machine, is simulated. -/
theorem simulated_of_retimed {act : State → Host.Outcome State Fault Refusal}
    (hanswers : ∀ s, s.Sound → ∃ t, act s = .next t)
    (hframe : ∀ s t, act s = .next t → t.config = s.config ∧ ∀ a, t.mem a = s.mem a)
    (hretimed : ∀ s t c ch n, act s = .next t → act (s.retimed c ch n) = .next (t.retimed c ch n)) : Simulated act := by
  intro s s' hs _ hsame
  obtain ⟨c, ch, n, rfl, hcode, hmem⟩ := exists_retimed_of_same hsame
  obtain ⟨t, ht⟩ := hanswers s hs
  obtain ⟨hconfig, hview⟩ := hframe s t ht
  exact ⟨t, t.retimed c ch n, ht, hretimed s t c ch n ht,
    sameButTiming_retimed n (hconfig ▸ hcode) fun a => (hview a).trans (hmem a)⟩

theorem actWriteBack_mem {s t : State} (h : actWriteBack s = .next t) (a : Word) : t.mem a = s.mem a := by
  obtain ⟨x, rfl⟩ := actWriteBack_frame h
  rfl

theorem actWriteBack_simulated : Simulated actWriteBack :=
  simulated_of_retimed (fun _ => actWriteBack_answers) (fun _ _ h => ⟨actWriteBack_config h, actWriteBack_mem h⟩)
    fun _ _ c ch n => actWriteBack_retimed c ch n

theorem actExecute_simulated : Simulated actExecute :=
  simulated_of_retimed (fun _ => actExecute_answers) (fun _ _ h => ⟨actExecute_config h, actExecute_mem h⟩)
    fun _ _ c ch n => actExecute_retimed c ch n

theorem actDecode_simulated : Simulated actDecode :=
  simulated_of_retimed (fun s _ => actDecode_answers s) (fun _ _ h => ⟨actDecode_config h, actDecode_mem h⟩)
    fun _ _ c ch n => actDecode_retimed c ch n

theorem actAccessMemory_simulated : Simulated actAccessMemory := by
  intro s s' hs hs' hsame
  obtain ⟨t, ht⟩ := actAccessMemory_answers hs
  obtain ⟨t', ht'⟩ := actAccessMemory_answers hs'
  have hmem' (a : Word) : t.mem a = t'.mem a :=
    calc t.mem a = s.memAfterStep a := actAccessMemory_mem ht hs a
      _ = s'.memAfterStep a := hsame.memAfterStep_eq a
      _ = t'.mem a := (actAccessMemory_mem ht' hs' a).symm
  refine ⟨t, t', ht, ht', ?_⟩
  obtain ⟨c, ch, n, rfl, hcode, hmem⟩ := exists_retimed_of_same hsame
  obtain ⟨ch1, n1, rfl⟩ := actAccessMemory_frame ht hs
  obtain ⟨ch2, n2, rfl⟩ := actAccessMemory_frame ht' hs'
  have hview : s.mem = (s.retimed c ch n).mem := funext hmem
  rw [← hview] at hmem' ⊢
  exact sameButTiming_retimed n2 hcode hmem'

/-- The fetch reads the same word, and leaves Mem as it was (R69, R206). -/
theorem actFetch_simulated : Simulated actFetch := by
  intro s s' hs hs' hsame
  obtain ⟨c, ch, n, rfl, hcode, hmem⟩ := exists_retimed_of_same hsame
  obtain ⟨n1, ch1, hread1, -, hview1⟩ := Chain.memRead_view (s.reg Reg.pc) hs.chain
  obtain ⟨n2, ch2, hread2, -, hview2⟩ := Chain.memRead_view (s.reg Reg.pc) hs'.chain
  have hword : s.chain.view s.config (s.reg Reg.pc) = ch.view c (s.reg Reg.pc) := hmem _
  rw [hword] at hread1
  refine ⟨_, _, actFetch_wait hread1, actFetch_wait (s := s.retimed c ch n) hread2, ?_⟩
  exact sameButTiming_retimed _ hcode fun a => (hview1 a).trans ((hmem a).trans (hview2 a).symm)

theorem finishStep_simulated : Simulated finishStep := by
  intro s s' _ _ hsame
  obtain ⟨c, ch, n, rfl, hcode, hmem⟩ := exists_retimed_of_same hsame
  exact ⟨_, _, rfl, rfl, sameButTiming_retimed (s := actReturn (actIncrement s)) n hcode hmem⟩

/-! ## The step in two machines that agree -/

/-- Machines that agree take the same branch after an action (R212). -/
theorem perform_simulated {act next : State → Host.Outcome State Fault Refusal} (hact : Simulated act)
    (hsound : KeepsSound act) (hnext : Simulated next) : Simulated (perform act next) := by
  intro s s' hs hs' hsame
  obtain ⟨t, t', ht, ht', hsame1⟩ := hact s s' hs hs' hsame
  by_cases hf : t.runState = .faulted
  · exact ⟨t, t', perform_taken ht hf, perform_taken ht' (hsame1.runState_eq ▸ hf), hsame1⟩
  · have hf' : t'.runState ≠ .faulted := hsame1.runState_eq ▸ hf
    rw [perform_next ht hf, perform_next ht' hf']
    exact hnext t t' (hsound s t ht hf hs) (hsound s' t' ht' hf' hs') hsame1

theorem stepActions_simulated : Simulated stepActions :=
  perform_simulated actWriteBack_simulated (fun _ _ h _ hs => (actWriteBack_keeps h hs).1) <|
  perform_simulated actAccessMemory_simulated (fun _ _ h _ hs => (actAccessMemory_keeps h hs).1) <|
  perform_simulated actExecute_simulated (fun _ _ h ht hs => (actExecute_keeps h ht hs).1) <|
  perform_simulated actDecode_simulated (fun _ _ h ht hs => (actDecode_keeps h ht hs).1) <|
  perform_simulated actFetch_simulated (fun _ _ h _ hs => (actFetch_keeps h hs).1) finishStep_simulated

/-- Settles O50: both machines run the actions, each of which is simulated, or both stand still. -/
theorem cachesAndDelaysAreInvisible : Obligations.CachesAndDelaysAreInvisible := by
  intro s s' hinv hinv' hsame
  by_cases ha : s.active = true
  · have ha' : s'.active = true := hsame.active_eq ▸ ha
    rw [step_active ha, step_active ha']
    exact stepActions_simulated s s' (State.inv_iff.1 hinv).1 (State.inv_iff.1 hinv').1 hsame
  · have ha' : ¬ s'.active = true := hsame.active_eq ▸ ha
    exact ⟨s, s', step_inactive ha, step_inactive ha', hsame⟩

end Sys2Proof.Machine
end

section
/-!
PROOFS. Statement O42: the write-back commits what the rules of the instruction in `slot.M` say, and the decode of the
same step reads the registers it leaves (49_pipeline_control.md R201, R202, R205; 70_reset_and_hazards.md R280).
-/

namespace Sys2Proof.Machine

/-- On a record of its form, the write-back of every instruction is what its rule commits (R120 to R193). -/
theorem opsOf_writeBack_ruleCommit {i : Instr} {r : InFlight} (c : Config) (x : Regs) (hop : r.op = i)
    (h : r.fields = fieldsSet i) (hres : r.res.isSome = (resAtExecute i || resAtAccess i)) :
    (opsOf i c).writeBack r x = .next (ruleCommit r x) := by
  cases i with
  | cmpu =>
    obtain ⟨a, ha⟩ := InFlight.a_set h rfl
    obtain ⟨b, hb⟩ := InFlight.b_set h rfl
    exact (writeCompare_set ha hb).trans (by simp only [ruleCommit, hop, ha, hb, Option.getD_some, compareUnsigned_eq])
  | cmps =>
    obtain ⟨a, ha⟩ := InFlight.a_set h rfl
    obtain ⟨b, hb⟩ := InFlight.b_set h rfl
    exact (writeCompare_set ha hb).trans (by simp only [ruleCommit, hop, ha, hb, Option.getD_some, compareSigned_eq])
  | not | mov =>
    obtain ⟨d, hd⟩ := InFlight.rd_set h rfl
    obtain ⟨a, ha⟩ := InFlight.a_set h rfl
    exact (writeOfA_set hd ha).trans (by simp only [ruleCommit, hop, hd, ha, Option.getD_some]; rfl)
  | jmp | jmpi | jmps | jmpsi =>
    obtain ⟨t, ht⟩ := InFlight.addr_set h rfl
    exact (writeJump_set ht).trans (by simp only [ruleCommit, hop, ht, Option.getD_some]; rfl)
  | sih =>
    obtain ⟨a, ha⟩ := InFlight.a_set h rfl
    exact (writeHandler_set ha).trans (by simp only [ruleCommit, hop, ha, Option.getD_some])
  | int => simp only [ruleCommit, hop, ← enterInterrupt_eq]; rfl
  | nop | str | stri | rfi => simp only [ruleCommit, hop]; rfl
  | _ =>
    obtain ⟨d, hd⟩ := InFlight.rd_set h rfl
    obtain ⟨v, hv⟩ := Option.isSome_iff_exists.1 hres
    exact (writeResult_set hd hv).trans (by simp only [ruleCommit, hop, hd, hv, Option.getD_some])

/-- The registers after the write-back of a slot (R202). -/
def committed (slot : Option InFlight) (x : Regs) : Regs :=
  match slot with
  | none => x
  | some m => ruleCommit m x

theorem actWriteBack_committed {s : State} (hs : s.Sound) :
    actWriteBack s = .next { s with slotW := s.slotM, regs := committed s.slotM s.regs, stageOp := .writeBack } := by
  rcases Option.eq_none_or_eq_some s.slotM with hm | ⟨r, hm⟩
  · rw [actWriteBack_empty hm, hm]
    rfl
  · have hrec : r.accessed = true := by simpa only [hm, Option.all_some] using hs.slotM
    have hwrite := opsOf_writeBack_ruleCommit s.config s.regs rfl (InFlight.fields_of_ok hrec) (InFlight.res_of_ok hrec)
    rw [actWriteBack_of_opsOf hm hwrite, hm]
    rfl

/-- A completed step ends with the record of the word that was in `slot.F`, decoded from the registers that its write-back
left. -/
theorem completedStep_slotD {s s1 t : State} {w : Word} {i : Instr} (ha : s.active = true) (h : step s = .next t)
    (ht : t.runState ≠ .faulted) (hwb : actWriteBack s = .next s1) (hF : s.slotF = some w) (hw : decodeWord w = .ok i) :
    t.slotD = some (decodedRecord i w s.config s1.regs) := by
  cases stepRun_of_step ha h with
  | executeFaults _ _ _ hf => exact absurd hf ht
  | decodeFaults _ _ _ _ _ hf => exact absurd hf ht
  | @completed _ _ s3 _ _ h1 h2 h3 hs3 h4 hs4 h5 done =>
    cases hwb.symm.trans h1
    obtain ⟨-, hF2, -, -, regs2⟩ := actAccessMemory_moves h2
    obtain ⟨-, hF3, -, -, regs3⟩ := actExecute_moves h3 hs3
    have config3 : s3.config = s.config :=
      (actExecute_config h3).trans ((actAccessMemory_config h2).trans (actWriteBack_config h1))
    have hF3w : s3.slotF = some w := by
      obtain ⟨x, rfl⟩ := actWriteBack_frame h1
      exact hF3.trans (hF2.trans hF)
    obtain ⟨n, v, ch, -, hfetch⟩ := actFetch_next _
    cases hfetch.symm.trans h5
    rw [actDecode_legal hF3w hw, exec_decode (s := { s3 with stageOp := .decode }) rfl hF3w] at h4
    cases h4
    rw [done, ← config3, ← regs2, ← regs3]
    rfl

/-- Settles O42: the write-back commits by its rule, and the decode of the same step and that of `exec` build one record
from what it leaves. -/
theorem decodeReadsRegistersAfterTheWriteBackOfTheSameStep :
    Obligations.DecodeReadsRegistersAfterTheWriteBackOfTheSameStep := by
  intro s t w i hinv ha hF hw h ht
  have hwb := actWriteBack_committed (State.inv_iff.1 hinv).1
  have hD := completedStep_slotD ha h ht hwb hF hw
  refine ⟨_, _, hwb, ?_, exec_decode rfl hF, hD, by rw [hD]; rfl⟩
  cases s.slotM <;> rfl

end Sys2Proof.Machine
end

section
/-!
PROOFS. Statement O6: reset (70_reset_and_hazards.md R270) leaves the machine that the instance's parameters alone give.
-/

namespace Sys2Proof.Machine

theorem clockEdge_reset {loadFirst : Bool} {p : PortIn} (hr : p.rst = true) (s : State) :
    clockEdge loadFirst p s = .next (State.resetWith s.config) :=
  if_pos hr

/-- With no line valid and nothing in DRAM, every word reads 0 (R38). -/
theorem State.resetWith_mem (c : Config) (a : Word) : (State.resetWith c).mem a = 0#32 :=
  (State.mem_of_invalid (State.resetWith_allLinesInvalid c) a).trans
    (Dram.readWord_absent (d := { mem := [], present := [] }) (by decide) List.not_mem_nil)

/-- No level holds a valid line after reset (R39). -/
theorem State.resetWith_no_line {c : Config} {st : Store} (h : st ∈ (State.resetWith c).chain.stores) (i : Nat) :
    assocFind st i = none := by
  rw [State.allLinesInvalid_iff.1 (State.resetWith_allLinesInvalid c) st h]
  rfl

/-- Settles O6: the values of `State.resetWith`, and no other field of the old state in it than the parameters. -/
theorem resetLeavesTheTableValues : Obligations.ResetLeavesTheTableValues := by
  intro loadFirst p s hr
  refine ⟨State.resetWith s.config, clockEdge_reset hr s, State.resetWith_reg s.config, rfl, rfl, rfl, rfl, rfl,
    fun st hst => State.resetWith_no_line hst, rfl, State.resetWith_mem s.config, rfl, rfl, rfl, rfl, fun s' hconfig => ?_⟩
  rw [clockEdge_reset hr s', hconfig]

end Sys2Proof.Machine
end
